-- ==== Sys2Proof/Word.lean ====
section
/-!
DEFINITION. The widths of the block: bytes and 32-bit words (00_scope.md R9: bit 0 is the least significant bit, every
value is unsigned).
-/
namespace Sys2Proof

/-- A byte is 8 bits (R9). -/
abbrev Byte := BitVec 8

/-- A host register is 32 bits wide (R22). -/
abbrev Word := BitVec 32

end Sys2Proof
end

