-- ==== Sys2Proof/Config.lean ====
section
/-!
DEFINITION. The parameters of 00_scope.md R8, which the spec says a model takes as arguments, with the defaults of R8
and 20_memory.md R63; and the free values, which nothing in Lean can evaluate.
-/
namespace Sys2Proof

/-- One entry of BAUD_TABLE: the bytes for the three timing registers (R49, R159). -/
structure Timing where
  cnf1 : Byte
  cnf2 : Byte
  cnf3 : Byte
  deriving DecidableEq, Repr, Inhabited

/-- BAUD_TABLE, a total function from the four supported rates to triples of bytes (R159). -/
structure BaudTable where
  kbps100 : Timing
  kbps125 : Timing
  kbps250 : Timing
  kbps500 : Timing
  deriving DecidableEq, Repr, Inhabited

/-- The named parameters of R8. Controller addresses are 8 bits (R64), bit indices 3 bits, mode request bytes 8 bits. -/
structure Params where
  /-- `W`: width of the millisecond clock and of TIMEOUT. -/
  clockWidth : Nat
  aStat : Byte
  aCtrl : Byte
  aTec : Byte
  aRec : Byte
  aCnf1 : Byte
  aCnf2 : Byte
  aCnf3 : Byte
  aInte : Byte
  aIntf : Byte
  aTxctrl : Byte
  aTxsidh : Byte
  aTxsidl : Byte
  aTxeid8 : Byte
  aTxeid0 : Byte
  aTxdlc : Byte
  aTxd0 : Byte
  aRxsidh : Byte
  aRxsidl : Byte
  aRxeid8 : Byte
  aRxeid0 : Byte
  aRxdlc : Byte
  aRxd0 : Byte
  rxfBit : BitVec 3
  txfBit : BitVec 3
  txreqBit : BitVec 3
  wakieBit : BitVec 3
  /-- `MODE_REQ(Normal)`. -/
  reqNormal : Byte
  /-- `MODE_REQ(Sleep)`. -/
  reqSleep : Byte
  /-- `MODE_REQ(ReceiveOnly)`. -/
  reqReceiveOnly : Byte
  baud : BaudTable
  deriving DecidableEq, Repr

/-- BAUD_TABLE is OPEN and has no default (R159, D24): a free value. Log 2. -/
opaque Config.baudTable : BaudTable

/-- What the controller answers in read slot `k` of the transaction made at draw `n`, where the outside world's list of
answers gives none (R70, U9). Log 4. -/
opaque Config.readByte : Nat → Nat → Byte

/-- What is received in slot `k`, which carries no read data, of the transaction made at draw `n` (R83: discarded).
Log 19. -/
opaque Config.slotByte : Nat → Nat → Byte

/-- The value the controller itself gives a register at the instant of a bit-modify (R41, R68). Log 8. -/
opaque Config.heldByte : Nat → Byte

/-- Whether the controller honours the WRREG write made at draw `n` (R132: its own affair, and not in the source). Log 28. -/
opaque Config.honoured : Nat → Bool

/-- The unspecified byte `F.data[i]` of the commit at draw `n` (R178, U1). Log 6. -/
opaque Config.frameByte : Nat → Nat → Byte

/-- Milliseconds from one clock sample to the next, where the outside world's list gives none (R33, U23). Log 5. -/
opaque Config.clockGap : Nat → Nat

/-- The unspecified latches after a block reset: latch field `k` at draw `n` (R230, U7). Log 3. -/
opaque Config.resetBits : Nat → Nat → Word

/-- The default parameters: R8, with the register map of R63. The values are those of an MCP2515-class controller
(PRESUMED by the spec, G2; log 1); BAUD_TABLE has no default. -/
def Config.default : Params where
  clockWidth := 32
  aStat := 0x0E
  aCtrl := 0x0F
  aTec := 0x1C
  aRec := 0x1D
  aCnf1 := 0x2A
  aCnf2 := 0x29
  aCnf3 := 0x28
  aInte := 0x2B
  aIntf := 0x2C
  aTxctrl := 0x30
  aTxsidh := 0x31
  aTxsidl := 0x32
  aTxeid8 := 0x33
  aTxeid0 := 0x34
  aTxdlc := 0x35
  aTxd0 := 0x36
  aRxsidh := 0x61
  aRxsidl := 0x62
  aRxeid8 := 0x63
  aRxeid0 := 0x64
  aRxdlc := 0x65
  aRxd0 := 0x66
  rxfBit := 0
  txfBit := 2
  txreqBit := 3
  wakieBit := 6
  reqNormal := 0x00
  reqSleep := 0x20
  reqReceiveOnly := 0x60
  baud := Config.baudTable

end Sys2Proof
end

