-- ==== Sys2Proof/Syntax.lean ====
section
/-!
DEFINITION. The instructions: one constructor for each row of spec/opcode_table.json. The host commands (format CMD8,
30_encoding.md R80, R81) carry no fields, because every operand is in a host register (R85). The transport commands
(format SPI8, R82, R83) carry the bytes that their layout gives them; the four whose layout is not in the source (N18)
carry none.
-/
namespace Sys2Proof

inductive Instr where
  /-- R111: encode identifier. -/
  | encid
  /-- R112: decode identifier. -/
  | decid
  /-- R113: encode control byte. -/
  | encctl
  /-- R114: decode control byte. -/
  | decctl
  /-- R131: read one controller register. -/
  | rdreg
  /-- R132: write one controller register. -/
  | wrreg
  /-- R133: write one bit of a controller register. -/
  | wrbit
  /-- R137: reset the controller. -/
  | creset
  /-- R151: enter Normal mode. -/
  | mnormal
  /-- R152: enter ReceiveOnly mode. -/
  | mrxonly
  /-- R153: enter Sleep mode. -/
  | msleep
  /-- R154: liveness probe. -/
  | awake
  /-- R158: program the bit rate. -/
  | setbaud
  /-- R180: receive one frame with a timeout. -/
  | recv
  /-- R182: passive sniff. -/
  | sniff
  /-- R190: address-filtered wait. -/
  | recvf
  /-- R194: transmit one frame with a timeout. -/
  | xmit
  /-- R83, R69: `[0xC0]`. -/
  | ctlReset
  /-- R83, R66: `[0x03, addr, 0x00 × n]`. -/
  | ctlRead (addr : Byte) (n : Nat)
  /-- R83, R67: `[0x02, addr, d0, ..., d(n-1)]`. -/
  | ctlWrite (addr : Byte) (data : List Byte)
  /-- R83, R68: `[0x05, addr, mask, value]`. -/
  | ctlBitmod (addr mask value : Byte)
  /-- R82: first byte 0x90, layout not in the source. -/
  | ctlReadRxBuffer
  /-- R82: first byte 0x40, layout not in the source. -/
  | ctlLoadTxBuffer
  /-- R82: first byte 0x80, layout not in the source. -/
  | ctlRequestToSend
  /-- R82: first byte 0xA0, layout not in the source. -/
  | ctlReadStatus
  deriving DecidableEq, Repr

end Sys2Proof
end

