-- ==== Sys2Proof/WellFormed.lean ====
section
/-!
DEFINITION. What the spec asks of an instruction and of the parameters. A read or a write carries n ≥ 1 data bytes
(20_memory.md R66, R67). Well-formed parameters have 1 ≤ W ≤ 32 (R8) and bursts that do not wrap (R64).
-/
namespace Sys2Proof

/-- The checks on an instruction: a read and a write move at least one byte (R66, R67). -/
def Instr.wf : Instr → Bool
  | .ctlRead _ n => decide (1 ≤ n)
  | .ctlWrite _ data => decide (1 ≤ data.length)
  | .encid | .decid | .encctl | .decctl | .rdreg | .wrreg | .wrbit | .creset | .mnormal | .mrxonly | .msleep | .awake
  | .setbaud | .recv | .sniff | .recvf | .xmit | .ctlReset | .ctlBitmod .. | .ctlReadRxBuffer | .ctlLoadTxBuffer
  | .ctlRequestToSend | .ctlReadStatus => true

/-- The checks on the parameters: `1 ≤ W ≤ 32` (R8), `A_TXD0 + 7 ≤ 0xFF` and `A_RXD0 + 7 ≤ 0xFF` (R64). -/
def Params.wf (p : Params) : Bool :=
  decide (1 ≤ p.clockWidth) && decide (p.clockWidth ≤ 32) && decide (p.aTxd0.toNat + 7 ≤ 0xFF)
    && decide (p.aRxd0.toNat + 7 ≤ 0xFF)

end Sys2Proof
end

