-- ==== Sys2Proof/Decode.lean ====
section
/-!
DEFINITION. Decoding and encoding. There are two encodings, and each has its own decoder: the 32-bit command word the host
writes to CMD (30_encoding.md R80, R81, R84), and the byte list of a transaction on the transport (R82, R83). Both
decoders are total and reject by name. The encoder is written from the same tables.
-/
namespace Sys2Proof

/-! ### The opcode map of host commands (R81) -/

def Opc.encid : Byte := 0x01
def Opc.decid : Byte := 0x02
def Opc.encctl : Byte := 0x03
def Opc.decctl : Byte := 0x04
def Opc.rdreg : Byte := 0x10
def Opc.wrreg : Byte := 0x11
def Opc.wrbit : Byte := 0x12
def Opc.creset : Byte := 0x13
def Opc.mnormal : Byte := 0x20
def Opc.mrxonly : Byte := 0x21
def Opc.msleep : Byte := 0x22
def Opc.awake : Byte := 0x23
def Opc.setbaud : Byte := 0x24
def Opc.recv : Byte := 0x30
def Opc.sniff : Byte := 0x31
def Opc.recvf : Byte := 0x32
def Opc.xmit : Byte := 0x33

/-- The table of R81: opcode and command. Every value that is not in it is illegal (R84). -/
def cmdTable : List (Byte × Instr) :=
  [(Opc.encid, .encid), (Opc.decid, .decid), (Opc.encctl, .encctl), (Opc.decctl, .decctl),
   (Opc.rdreg, .rdreg), (Opc.wrreg, .wrreg), (Opc.wrbit, .wrbit), (Opc.creset, .creset),
   (Opc.mnormal, .mnormal), (Opc.mrxonly, .mrxonly), (Opc.msleep, .msleep), (Opc.awake, .awake),
   (Opc.setbaud, .setbaud),
   (Opc.recv, .recv), (Opc.sniff, .sniff), (Opc.recvf, .recvf), (Opc.xmit, .xmit)]

/-! ### The transport command bytes (R82) -/

def Spi.reset : Byte := 0xC0
def Spi.read : Byte := 0x03
def Spi.write : Byte := 0x02
def Spi.bitmod : Byte := 0x05
def Spi.readRxBuffer : Byte := 0x90
def Spi.loadTxBuffer : Byte := 0x40
def Spi.requestToSend : Byte := 0x80
def Spi.readStatus : Byte := 0xA0

/-- Why a word or a byte list is no instruction. -/
inductive Reject where
  /-- OPC is not in the table of R81 (R84). -/
  | illegalOpcode (opc : Byte)
  /-- A transaction of no bytes. -/
  | emptyTransaction
  /-- Byte 0 is none of the eight command bytes of R82. -/
  | unknownCommandByte (byte0 : Byte)
  /-- The bytes after byte 0 are too few or too many for the layout of R83. -/
  | badLength (byte0 : Byte)
  /-- A read slot is not sent as 0x00 (R66, R83; log 25). -/
  | nonzeroFiller
  deriving DecidableEq, Repr

/-- The result of decoding. -/
inductive Decoded where
  | ok (i : Instr)
  | reject (r : Reject)
  deriving DecidableEq, Repr

def Decoded.toOption : Decoded → Option Instr
  | .ok i => some i
  | .reject _ => none

/-- The command that an opcode names, if any (R81). -/
def decodeOpc (opc : Byte) : Option Instr :=
  (cmdTable.find? (fun row => row.1 == opc)).map (·.2)

/-- `OPC = wdata[7:0]`; bits [31:8] of a CMD write are ignored (R80). -/
def opcOfWord (w : Word) : Byte := w.extractLsb' 0 8

/-- Decode a host command word (R80, R81, R84). -/
def decodeCmd (w : Word) : Decoded :=
  match decodeOpc (opcOfWord w) with
  | some i => .ok i
  | none => .reject (.illegalOpcode (opcOfWord w))

/-- Decode the read layout after the command byte: `addr` and n ≥ 1 slots of 0x00 (R83). -/
def decodeRead : List Byte → Decoded
  | addr :: slot :: slots =>
    if (slot :: slots).all (· == 0) then .ok (.ctlRead addr (slots.length + 1)) else .reject .nonzeroFiller
  | _ => .reject (.badLength Spi.read)

/-- Decode the write layout after the command byte: `addr` and n ≥ 1 data bytes (R83). -/
def decodeWrite : List Byte → Decoded
  | addr :: d :: ds => .ok (.ctlWrite addr (d :: ds))
  | _ => .reject (.badLength Spi.write)

/-- Decode the bit-modify layout after the command byte: exactly addr, mask and value (R83). -/
def decodeBitmod : List Byte → Decoded
  | [addr, mask, value] => .ok (.ctlBitmod addr mask value)
  | _ => .reject (.badLength Spi.bitmod)

/-- Decode the reset layout after the command byte: nothing follows (R83). -/
def decodeReset : List Byte → Decoded
  | [] => .ok .ctlReset
  | _ => .reject (.badLength Spi.reset)

/-- Decode a transaction on its byte 0 (R83). The four commands whose layout is not in the source (N18) are matched on
byte 0 alone, as their rows of the opcode table say. -/
def decodeXact : List Byte → Decoded
  | [] => .reject .emptyTransaction
  | b :: rest =>
    if b = Spi.reset then decodeReset rest
    else if b = Spi.read then decodeRead rest
    else if b = Spi.write then decodeWrite rest
    else if b = Spi.bitmod then decodeBitmod rest
    else if b = Spi.readRxBuffer then .ok .ctlReadRxBuffer
    else if b = Spi.loadTxBuffer then .ok .ctlLoadTxBuffer
    else if b = Spi.requestToSend then .ok .ctlRequestToSend
    else if b = Spi.readStatus then .ok .ctlReadStatus
    else .reject (.unknownCommandByte b)

/-! ### The encoder -/

/-- What an instruction is encoded as: a command word, or the bytes of a transaction. -/
inductive Code where
  | cmd (w : Word)
  | xact (bytes : List Byte)
  deriving DecidableEq, Repr

/-- Decode either kind of code. -/
def decode : Code → Decoded
  | .cmd w => decodeCmd w
  | .xact bytes => decodeXact bytes

/-- `zeros(n)` of R15. -/
def zeros (n : Nat) : List Byte := List.replicate n 0

/-- A command word holds OPC in [7:0]; bits [31:8] are written 0 (R80, R93). -/
def cmdWord (opc : Byte) : Word := opc.setWidth 32

/-- The bytes of a read (R66). -/
def readBytes (addr : Byte) (n : Nat) : List Byte := Spi.read :: addr :: zeros n

/-- The bytes of a write (R67). -/
def writeBytes (addr : Byte) (data : List Byte) : List Byte := Spi.write :: addr :: data

/-- The bytes of a bit-modify (R68). -/
def bitmodBytes (addr mask value : Byte) : List Byte := [Spi.bitmod, addr, mask, value]

/-- The bytes of a controller reset (R69). -/
def resetBytes : List Byte := [Spi.reset]

/-- The code of an instruction (R81, R83). A command whose layout is not in the source is its byte 0. -/
def encode : Instr → Code
  | .encid => .cmd (cmdWord Opc.encid)
  | .decid => .cmd (cmdWord Opc.decid)
  | .encctl => .cmd (cmdWord Opc.encctl)
  | .decctl => .cmd (cmdWord Opc.decctl)
  | .rdreg => .cmd (cmdWord Opc.rdreg)
  | .wrreg => .cmd (cmdWord Opc.wrreg)
  | .wrbit => .cmd (cmdWord Opc.wrbit)
  | .creset => .cmd (cmdWord Opc.creset)
  | .mnormal => .cmd (cmdWord Opc.mnormal)
  | .mrxonly => .cmd (cmdWord Opc.mrxonly)
  | .msleep => .cmd (cmdWord Opc.msleep)
  | .awake => .cmd (cmdWord Opc.awake)
  | .setbaud => .cmd (cmdWord Opc.setbaud)
  | .recv => .cmd (cmdWord Opc.recv)
  | .sniff => .cmd (cmdWord Opc.sniff)
  | .recvf => .cmd (cmdWord Opc.recvf)
  | .xmit => .cmd (cmdWord Opc.xmit)
  | .ctlReset => .xact resetBytes
  | .ctlRead addr n => .xact (readBytes addr n)
  | .ctlWrite addr data => .xact (writeBytes addr data)
  | .ctlBitmod addr mask value => .xact (bitmodBytes addr mask value)
  | .ctlReadRxBuffer => .xact [Spi.readRxBuffer]
  | .ctlLoadTxBuffer => .xact [Spi.loadTxBuffer]
  | .ctlRequestToSend => .xact [Spi.requestToSend]
  | .ctlReadStatus => .xact [Spi.readStatus]

/-! ### Words numbered as the opcode table numbers them -/

/-- How many bytes follow byte 0 in the shortest transaction of a command byte (R83). -/
def shortestTail (byte0 : Byte) : Nat :=
  if byte0 = Spi.read then 2 else if byte0 = Spi.write then 2 else if byte0 = Spi.bitmod then 3 else 0

/-- The transaction of a transport row given by its byte 0: the bytes the table gives no bits to are 0, up to the
shortest transaction of that command (log 15). -/
def tableXact (w : Nat) : List Byte :=
  BitVec.ofNat 8 w :: zeros (shortestTail (BitVec.ofNat 8 w))

/-- The instruction the decoders read from a row's bits: rows of 8 bits are transport commands (format SPI8), wider rows
are command words (format CMD8). -/
def decodeTableWord (nbits w : Nat) : Option Instr :=
  if nbits ≤ 8 then (decodeXact (tableXact w)).toOption else (decodeCmd (BitVec.ofNat 32 w)).toOption

end Sys2Proof
end

