-- ==== Sys2Proof/Machine/State.lean ====
section
/-!
DEFINITION. The state as plain data: the host registers H (10_state.md R22 to R34), the engine latches E (R35 to R40),
the controller as the block sees it (R41 to R53), the parameters (00_scope.md R8), and the outside world as data; the
faults and refusals; and the state after reset (70_reset_and_hazards.md R230).
-/
namespace Sys2Proof.Machine

/-- Eight payload bytes `data[0..7]` (R27). -/
structure Payload where
  d0 : Byte
  d1 : Byte
  d2 : Byte
  d3 : Byte
  d4 : Byte
  d5 : Byte
  d6 : Byte
  d7 : Byte
  deriving DecidableEq, Repr

/-- A frame: the fields of R27, at the widths of R85. -/
structure Frame where
  identifier : BitVec 11
  isExtended : Bool
  extendedIdentifier : BitVec 18
  isRemoteRequest : Bool
  dataLength : BitVec 4
  data : Payload
  deriving DecidableEq, Repr

/-- The four packed identifier bytes: the PACK register (R29), and the layout of R86 to R89. -/
structure PackedId where
  sidh : Byte
  sidl : Byte
  eid8 : Byte
  eid0 : Byte
  deriving DecidableEq, Repr

/-- The five header bytes sidHigh, sidLow, eid8, eid0, dlcByte (R39, R86 to R90). -/
structure Header where
  id : PackedId
  dlcByte : Byte
  deriving DecidableEq, Repr

/-- STATUS (R24): BUSY [0], DONE [1], OK [2], ERR [7:4]. Its other bits read 0 (R22). -/
structure Status where
  busy : Bool
  done : Bool
  ok : Bool
  err : BitVec 4
  deriving DecidableEq, Repr

/-- REGBIT (R31): IDX [2:0], VAL [8]. -/
structure RegBit where
  idx : BitVec 3
  val : Bool
  deriving DecidableEq, Repr

/-- RESULT (R34): BYTE [7:0], AWAKE [8]. -/
structure Result where
  byte : Byte
  awake : Bool
  deriving DecidableEq, Repr

/-- The host registers of R22. Only the bits a register implements are held; the others read 0. -/
structure HostRegs where
  /-- CMD.OPC (R23). -/
  cmd : Byte
  /-- STATUS (R24). -/
  status : Status
  /-- TIMEOUT.MS, W bits; bits [31:W] are 0 (R25). -/
  timeout : Word
  /-- TARGET.ID (R26). -/
  target : BitVec 11
  /-- BAUD.KBPS (R32). -/
  baud : BitVec 16
  /-- REGADDR.ADDR (R31). -/
  regAddr : Byte
  /-- REGDATA.DATA (R31). -/
  regData : Byte
  /-- REGBIT (R31). -/
  regBit : RegBit
  /-- RESULT (R34). -/
  result : Result
  /-- FRAME_ID, FRAME_EID, FRAME_CTL, FRAME_DATA0/1: the frame buffer F (R27). -/
  frame : Frame
  /-- PACK (R29). -/
  pack : PackedId
  /-- PACKDLC.DLCB (R30). -/
  packDlc : Byte
  deriving DecidableEq, Repr

/-- How a base receive ended: R180's FRAME, EXPIRED or BAD_DLC. -/
inductive RxResult where
  | frame
  | expired
  | badDlc
  deriving DecidableEq, Repr

/-- How a wait ended: R172's SET or EXPIRED. -/
inductive Wait where
  | set
  | expired
  deriving DecidableEq, Repr

/-- The position in a command's procedure (R35). A label of the pseudocode of 44_poll_engine.md is the phase of that
name; a step of a command without labels is `line k`, counted from 0 (log 10). -/
inductive Phase where
  /-- Step `k` of a procedure without labels; for RECVF, the line before SL (R190). -/
  | line (k : Nat)
  /-- S0 of R180 and of R194. -/
  | s0
  /-- SP, the poll step (R172). -/
  | sp
  /-- ST, the clock step (R172). -/
  | st
  /-- SH0 to SH4, the header reads (R176). -/
  | sh (k : Fin 5)
  /-- SD, the payload burst (R178). -/
  | sd
  /-- SXC, the clear after decode (R179). -/
  | sxc
  /-- SXB, the clear on a rejected frame (R177). -/
  | sxb
  /-- What follows the base receive's return (R180, R182, R190). -/
  | ret (r : RxResult)
  /-- TH0 to TH4, the header writes (R194). -/
  | th (k : Fin 5)
  /-- TD, the payload write (R194). -/
  | td
  /-- TR, the transmit request (R194). -/
  | tr
  /-- TS, the start sample (R194). -/
  | ts
  /-- TA, the abort (R199). -/
  | ta
  /-- TC, the clear of the completion flag (R200). -/
  | tc (w : Wait)
  /-- The completion step of XMIT (R194). -/
  | fin (w : Wait)
  deriving DecidableEq, Repr

/-- The engine FSM state (R35). -/
inductive Fsm where
  | idle
  | run (opc : Byte) (phase : Phase)
  deriving DecidableEq, Repr

/-- The engine latches (R35 to R39). -/
structure Engine where
  fsm : Fsm
  /-- E.start, W bits; the bits above are 0 (R36). -/
  start : Word
  /-- E.consec (R37). -/
  consec : BitVec 4
  /-- E.work (R38). -/
  work : Frame
  /-- E.hdr (R39). -/
  hdr : Header
  /-- The byte `b` of R131 or `s` of R151 to R154, from its read to the completion step (log 21). -/
  rxByte : Byte
  deriving DecidableEq, Repr

/-- The controller modes of R51. -/
inductive CtlMode where
  | configuration
  | normal
  | sleep
  | receiveOnly
  deriving DecidableEq, Repr

/-- Bytes by address, addresses strictly rising. An address that is not listed has no known value: it is left to the
oracle (R53; log 26). -/
abbrev Memory := List Host.Cell

/-- The controller as the block's transactions are assumed to leave it (R67 to R70; log 7). No read is answered from it. -/
structure Controller where
  /-- `CR[0x00..0xFF]` (R41). -/
  cr : Memory
  /-- The controller mode (R51), where a transaction has established it (log 9). -/
  mode : Option CtlMode
  deriving DecidableEq, Repr

/-- One transaction of the trace: the bytes sent and the bytes received, of the same length (R15). -/
structure Transaction where
  sent : List Byte
  received : List Byte
  deriving DecidableEq, Repr

/-- Which agent moves next, and with what (R20, R72; log 12). -/
inductive Input where
  /-- The host reads at a byte offset with a width in bits (R61). -/
  | read (offset width : Nat)
  /-- The host writes (R61). -/
  | write (offset width : Nat) (wdata : Word)
  /-- The host reads STATUS repeatedly until BUSY = 0 (R93). -/
  | wait
  /-- The engine makes one step. -/
  | engine
  /-- The platform asserts the block reset (R230, R231). -/
  | blockReset
  /-- The controller's own power-on (R53). -/
  | controllerPowerOn
  deriving DecidableEq, Repr

/-- The outside world and the bookkeeping of the free values. None of it is state of the block. -/
structure Env where
  /-- The moves to come; when empty, the engine moves (log 12). -/
  inputs : List Input
  /-- A transaction put on the transport by itself (log 14). -/
  port : Option (List Byte)
  /-- The bytes the controller will answer in read slots; past its end, free values (log 4). -/
  answers : List Byte
  /-- The milliseconds between clock samples to come; past its end, free values (log 5). -/
  clockGaps : List Nat
  /-- Real time in milliseconds at the last clock sample, not wrapped (R33). -/
  now : Nat
  /-- Selects the next free value. -/
  draws : Nat
  /-- The transactions made, newest first (R223). -/
  trace : List Transaction
  /-- The value the host's last read returned (log 27). -/
  rdata : Word
  deriving DecidableEq, Repr

structure State where
  host : HostRegs
  eng : Engine
  ctl : Controller
  cfg : Params
  env : Env
  deriving DecidableEq, Repr

/-- Why the machine is stuck. -/
inductive Fault where
  /-- Raised by a command's meaning when the engine is in a phase that the command does not have. Safe: no run reaches
  such a state, and the machine stops where the spec describes nothing (log 20). -/
  | phaseNotOfCommand
  deriving DecidableEq, Repr

/-- Why the model gives a step no meaning. -/
inductive Refusal where
  /-- Raised by exec for an instruction without a meaning. Safe: the model stops. -/
  | notModelled (mnemonic : String)
  /-- Raised by a host access that is not 32 bits wide, not at a multiple of 4, or outside the 256-byte window: "outside
  the block's interface. A model refuses it" (R61). Safe: the model stops (log 17). -/
  | hostAccessOutsideInterface
  /-- Raised by step when the bytes on the transport port are no transaction of R83. Safe: the model stops (log 14). -/
  | notATransaction
  /-- Raised by the four transport commands that the source lists without layout or effect (R82, N18, U29). Safe: the
  model stops (log 16). -/
  | transportLayoutNotInSource
  deriving DecidableEq, Repr

/-- The outcome of a step of this machine. -/
abbrev Outcome := Host.Outcome State Fault Refusal

/-- A payload of zeros. -/
def Payload.zero : Payload := ⟨0, 0, 0, 0, 0, 0, 0, 0⟩

/-- Every field of a frame 0 (R27: reset). -/
def Frame.zero : Frame := ⟨0, false, 0, false, 0, Payload.zero⟩

/-- Packed identifier bytes of zeros. -/
def PackedId.zero : PackedId := ⟨0, 0, 0, 0⟩

/-- A header of zeros. -/
def Header.zero : Header := ⟨PackedId.zero, 0⟩

/-- Every host register after reset: 0x00000000 (R22, R230). -/
def HostRegs.reset : HostRegs where
  cmd := 0
  status := ⟨false, false, false, 0⟩
  timeout := 0
  target := 0
  baud := 0
  regAddr := 0
  regData := 0
  regBit := ⟨0, false⟩
  result := ⟨0, false⟩
  frame := Frame.zero
  pack := PackedId.zero
  packDlc := 0

/-- The controller after its power-on or its reset command: in Configuration, and no register known (R53; log 26). -/
def Controller.powerOn : Controller := ⟨[], some .configuration⟩

/-- The machine right after reset (R230): host registers 0, fsm IDLE, E.consec 0. E.start, E.work, E.hdr and the read
latch are unspecified and hold 0 here (DESIGN CHOICE, logs 3 and 21). The block does not reset the controller; here it is
the controller after its own power-on (R53; DESIGN CHOICE, logs 9 and 26). The parameters are the defaults (log 1), and the
outside world has said nothing yet. -/
def State.reset : State where
  host := HostRegs.reset
  eng := ⟨.idle, 0, 0, Frame.zero, Header.zero, 0⟩
  ctl := Controller.powerOn
  cfg := Config.default
  env := ⟨[], none, [], [], 0, 0, [], 0⟩

end Sys2Proof.Machine
end

