-- ==== Sys2Proof/Machine/Flags.lean ====
section
/-!
DEFINITION. The flags: STATUS at acceptance and at completion (60_exceptions.md R211 to R213), the awake verdict
(43_mode_control.md R151 to R154), and the controller mode that a status byte reports (10_state.md R43).
-/
namespace Sys2Proof.Machine

/-- The error codes of R211. -/
inductive CmdError where
  | modeFailed
  | baudUnsupported
  | rxTimeout
  | txTimeout
  | badDlc
  | badFrame
  | noFrame
  | filterExhausted
  | illegalCmd
  deriving DecidableEq, Repr

/-- STATUS.ERR of an error (R211); 0 is NONE. -/
def CmdError.code : CmdError → BitVec 4
  | .modeFailed => 1
  | .baudUnsupported => 2
  | .rxTimeout => 3
  | .txTimeout => 4
  | .badDlc => 5
  | .badFrame => 6
  | .noFrame => 7
  | .filterExhausted => 8
  | .illegalCmd => 15

/-- STATUS when a command is accepted: BUSY=1, DONE=0, OK=0, ERR=0 (R212). -/
def Status.accepted : Status := ⟨true, false, false, 0⟩

/-- STATUS after `finish(OK)`: ERR=NONE, OK=1, DONE=1, BUSY=0 (R213). -/
def Status.succeeded : Status := ⟨false, true, true, 0⟩

/-- STATUS after `raise CmdError(code)`: ERR=code, OK=0, DONE=1, BUSY=0 (R213). -/
def Status.failed (e : CmdError) : Status := ⟨false, true, false, e.code⟩

/-- `OPMODE = CR[A_STAT][7:5]` (R43). -/
def opmode (status : Byte) : BitVec 3 := status.extractLsb' 5 3

/-- The status code of Normal (R43). -/
def codeNormal : BitVec 3 := 0

/-- The status code of Sleep (R43). -/
def codeSleep : BitVec 3 := 1

/-- The status code of ReceiveOnly (R43). -/
def codeReceiveOnly : BitVec 3 := 3

/-- The awake verdict `s[7:5] != 1` (R151 to R154). -/
def awakeOf (status : Byte) : Bool := opmode status != codeSleep

/-- The mode a status byte reports. The code of Configuration is not in the source (R43, N6), so every code but the
three of R43 reports no known mode (log 9). -/
def modeOfStatus (status : Byte) : Option CtlMode :=
  if opmode status = codeNormal then some .normal
  else if opmode status = codeSleep then some .sleep
  else if opmode status = codeReceiveOnly then some .receiveOnly
  else none

end Sys2Proof.Machine
end

