-- ==== Sys2Proof/Machine/Memory.lean ====
section
/-!
DEFINITION. The controller register space as a list of cells in one canonical form (20_memory.md R60, R64): addresses
strictly rising, and an address that is not listed has no known value.
-/
namespace Sys2Proof.Machine

/-- The value listed for an address, if any. -/
def Memory.read : Memory → Nat → Option Byte
  | [], _ => none
  | (a, b) :: rest, x => if x = a then some b else Memory.read rest x

/-- List a value for an address, in its place. -/
def Memory.write : Memory → Nat → Byte → Memory
  | [], x, v => [(x, v)]
  | (a, b) :: rest, x, v =>
    if x < a then (x, v) :: (a, b) :: rest
    else if x = a then (x, v) :: rest
    else (a, b) :: Memory.write rest x v

/-- Take the value of an address off the list: it is left to the oracle (R53, R160). -/
def Memory.forget (m : Memory) (x : Nat) : Memory := m.filter fun c => c.1 != x

/-- Every address is above `lo` (or there is no bound), below 256 (R60), and the addresses rise strictly. -/
def Memory.rising : Option Nat → Memory → Bool
  | _, [] => true
  | lo, (a, _) :: rest => lo.all (· < a) && decide (a < 256) && Memory.rising (some a) rest

/-- The canonical form. -/
def Memory.wf (m : Memory) : Bool := Memory.rising none m

end Sys2Proof.Machine
end

