-- ==== Sys2Proof/Machine/Operands.lean ====
section
/-!
DEFINITION. Operand assembly (30_encoding.md R85): payload and header lanes, the W-bit clock arithmetic (00_scope.md R10),
bit masks (42_register_access.md R133), and the host register map (10_state.md R22) with what a read of each register
returns.
-/
namespace Sys2Proof.Machine

/-! ### Payload and header -/

/-- `data[i]` (R27). -/
def Payload.get (p : Payload) : Nat → Byte
  | 0 => p.d0
  | 1 => p.d1
  | 2 => p.d2
  | 3 => p.d3
  | 4 => p.d4
  | 5 => p.d5
  | 6 => p.d6
  | 7 => p.d7
  | _ => 0

/-- The payload with `data[i] = f i`. -/
def Payload.ofFn (f : Nat → Byte) : Payload := ⟨f 0, f 1, f 2, f 3, f 4, f 5, f 6, f 7⟩

/-- `data[0 .. n-1]`, in order: data[0] goes first (R75). -/
def Payload.take (p : Payload) (n : Nat) : List Byte := (List.range n).map p.get

/-- Byte `k` of the header, in the order sidHigh, sidLow, eid8, eid0, dlcByte (R176, R196). -/
def Header.get (h : Header) : Fin 5 → Byte
  | 0 => h.id.sidh
  | 1 => h.id.sidl
  | 2 => h.id.eid8
  | 3 => h.id.eid0
  | 4 => h.dlcByte

/-- Latch byte `k` of the header: `E.hdr[k] <- b` (R176). -/
def Header.set (h : Header) (k : Fin 5) (b : Byte) : Header :=
  match k with
  | 0 => { h with id := { h.id with sidh := b } }
  | 1 => { h with id := { h.id with sidl := b } }
  | 2 => { h with id := { h.id with eid8 := b } }
  | 3 => { h with id := { h.id with eid0 := b } }
  | 4 => { h with dlcByte := b }

/-- The controller address of receive header byte `k` (R176). -/
def rxHeaderAddr (p : Params) : Fin 5 → Byte
  | 0 => p.aRxsidh
  | 1 => p.aRxsidl
  | 2 => p.aRxeid8
  | 3 => p.aRxeid0
  | 4 => p.aRxdlc

/-- The controller address of transmit header byte `k` (R194). -/
def txHeaderAddr (p : Params) : Fin 5 → Byte
  | 0 => p.aTxsidh
  | 1 => p.aTxsidl
  | 2 => p.aTxeid8
  | 3 => p.aTxeid0
  | 4 => p.aTxdlc

/-! ### W-bit values and bit masks -/

/-- The low W bits of a word; the others 0 (R10, R25). -/
def lowBits (w : Nat) (v : Word) : Word := v &&& BitVec.ofNat 32 (2 ^ w - 1)

/-- `(t - start) mod 2^W` (R10, R175). -/
def elapsed (w : Nat) (t start : Word) : Word := lowBits w (t - start)

/-- `1 << idx`, a byte (R133). -/
def bitMask (idx : BitVec 3) : Byte := (1 : Byte) <<< idx.toNat

/-- `f[bit]` (R171). -/
def bitOf (f : Byte) (idx : BitVec 3) : Bool := f.getLsbD idx.toNat

/-! ### The host register map (R22) -/

/-- The names of R22. -/
inductive HostReg where
  | cmd
  | status
  | timeout
  | target
  | baud
  | regaddr
  | regdata
  | regbit
  | result
  | frameId
  | frameEid
  | frameCtl
  | frameData0
  | frameData1
  | pack
  | packdlc
  deriving DecidableEq, Repr

/-- The byte offset of a register (R22). -/
def HostReg.offset : HostReg → Nat
  | .cmd => 0x00
  | .status => 0x04
  | .timeout => 0x08
  | .target => 0x0C
  | .baud => 0x10
  | .regaddr => 0x14
  | .regdata => 0x18
  | .regbit => 0x1C
  | .result => 0x20
  | .frameId => 0x24
  | .frameEid => 0x28
  | .frameCtl => 0x2C
  | .frameData0 => 0x30
  | .frameData1 => 0x34
  | .pack => 0x38
  | .packdlc => 0x3C

/-- Every register of R22. -/
def HostReg.all : List HostReg :=
  [.cmd, .status, .timeout, .target, .baud, .regaddr, .regdata, .regbit, .result, .frameId, .frameEid, .frameCtl,
   .frameData0, .frameData1, .pack, .packdlc]

/-- The register at an offset; none for the reserved offsets 0x40 to 0xFC (R22). -/
def HostReg.atOffset (offset : Nat) : Option HostReg := HostReg.all.find? (fun r => r.offset == offset)

/-- Four bytes as a word, the first in bits [7:0] (R75, D34). -/
def lanes (b0 b1 b2 b3 : Byte) : Word := b3 ++ b2 ++ b1 ++ b0

/-- The byte in lane `k` of a word. -/
def lane (v : Word) (k : Nat) : Byte := v.extractLsb' (8 * k) 8

/-- A flag as a word, in bit `k`. -/
def flagBit (k : Nat) (b : Bool) : Word := if b then (1 : Word) <<< k else 0

/-- STATUS as the host reads it (R24). -/
def Status.toWord (s : Status) : Word :=
  flagBit 0 s.busy ||| flagBit 1 s.done ||| flagBit 2 s.ok ||| (s.err.setWidth 32 <<< 4)

/-- RESULT as the host reads it (R34). -/
def Result.toWord (r : Result) : Word := r.byte.setWidth 32 ||| flagBit 8 r.awake

/-- REGBIT as the host reads it (R31). -/
def RegBit.toWord (r : RegBit) : Word := r.idx.setWidth 32 ||| flagBit 8 r.val

/-- PACK as the host reads it (R29). -/
def PackedId.toWord (p : PackedId) : Word := lanes p.sidh p.sidl p.eid8 p.eid0

/-- FRAME_CTL as the host reads it: DLC [3:0], EXT [4], RTR [5] (R22). -/
def Frame.ctlWord (f : Frame) : Word :=
  f.dataLength.setWidth 32 ||| flagBit 4 f.isExtended ||| flagBit 5 f.isRemoteRequest

/-- What a host read of a register returns (R22). -/
def HostRegs.read (h : HostRegs) : HostReg → Word
  | .cmd => h.cmd.setWidth 32
  | .status => h.status.toWord
  | .timeout => h.timeout
  | .target => h.target.setWidth 32
  | .baud => h.baud.setWidth 32
  | .regaddr => h.regAddr.setWidth 32
  | .regdata => h.regData.setWidth 32
  | .regbit => h.regBit.toWord
  | .result => h.result.toWord
  | .frameId => h.frame.identifier.setWidth 32
  | .frameEid => h.frame.extendedIdentifier.setWidth 32
  | .frameCtl => h.frame.ctlWord
  | .frameData0 => lanes h.frame.data.d0 h.frame.data.d1 h.frame.data.d2 h.frame.data.d3
  | .frameData1 => lanes h.frame.data.d4 h.frame.data.d5 h.frame.data.d6 h.frame.data.d7
  | .pack => h.pack.toWord
  | .packdlc => h.packDlc.setWidth 32

/-- What a host write of an operand register leaves (R22). Bits that a register does not implement are dropped. STATUS
and RESULT are read-only (R61); CMD is written only by acceptance (R212). -/
def HostRegs.write (w : Nat) (h : HostRegs) (r : HostReg) (v : Word) : HostRegs :=
  match r with
  | .cmd | .status | .result => h
  | .timeout => { h with timeout := lowBits w v }
  | .target => { h with target := v.extractLsb' 0 11 }
  | .baud => { h with baud := v.extractLsb' 0 16 }
  | .regaddr => { h with regAddr := v.extractLsb' 0 8 }
  | .regdata => { h with regData := v.extractLsb' 0 8 }
  | .regbit => { h with regBit := ⟨v.extractLsb' 0 3, v.getLsbD 8⟩ }
  | .frameId => { h with frame := { h.frame with identifier := v.extractLsb' 0 11 } }
  | .frameEid => { h with frame := { h.frame with extendedIdentifier := v.extractLsb' 0 18 } }
  | .frameCtl =>
    { h with
      frame :=
        { h.frame with
          dataLength := v.extractLsb' 0 4, isExtended := v.getLsbD 4, isRemoteRequest := v.getLsbD 5 } }
  | .frameData0 =>
    { h with
      frame :=
        { h.frame with
          data := { h.frame.data with d0 := lane v 0, d1 := lane v 1, d2 := lane v 2, d3 := lane v 3 } } }
  | .frameData1 =>
    { h with
      frame :=
        { h.frame with
          data := { h.frame.data with d4 := lane v 0, d5 := lane v 1, d6 := lane v 2, d7 := lane v 3 } } }
  | .pack => { h with pack := ⟨lane v 0, lane v 1, lane v 2, lane v 3⟩ }
  | .packdlc => { h with packDlc := v.extractLsb' 0 8 }

end Sys2Proof.Machine
end

