-- ==== Sys2Proof/Machine/Ops.lean ====
section
/-!
DEFINITION. The shared operations: the controller's side of a transaction, the four transactions of 20_memory.md R66 to
R69, the clock sample (00_scope.md R16), command acceptance and completion (60_exceptions.md R212, R213), the commit of a
received frame (44_poll_engine.md R178), and the running of a command by phases (10_state.md R35).
-/
namespace Sys2Proof.Machine

/-! ### The controller's side of a transaction -/

/-- Apply `f` to consecutive addresses and the bytes of a burst; addresses wrap modulo 256 (R64). -/
def burst (f : Nat → Byte → Controller → Controller) : Nat → List Byte → Controller → Controller
  | _, [], c => c
  | a, b :: bs, c => burst f ((a + 1) % 256) bs (f a b c)

/-- The block reads `b` at address `a`: that is the register's value at some instant of the transaction (R70). A read of
the status register also tells the mode it reports (R43). -/
def Controller.observe (p : Params) (a : Nat) (b : Byte) (c : Controller) : Controller :=
  { cr := c.cr.write a b, mode := if a = p.aStat.toNat then modeOfStatus b else c.mode }

/-- The block writes `b` at address `a` (R67). A write of the control register is a request whose outcome is not known
until it is confirmed (R150), so no mode is known after it. The registers recorded stay recorded, also when the request is
for Sleep and the controller later wakes: what survives Sleep is not in the source (R224, N22), and that the record is kept
is the model's choice (log 29). -/
def Controller.store (p : Params) (a : Nat) (b : Byte) (c : Controller) : Controller :=
  { cr := c.cr.write a b, mode := if a = p.aCtrl.toNat then none else c.mode }

/-- What is known of register `a` after a write of it: what was recorded where the controller honours the write, and
nothing otherwise, the register then being left to the oracle (R132, R160). -/
def Controller.settle (honoured : Bool) (a : Byte) (c : Controller) : Controller :=
  if honoured then c else { c with cr := c.cr.forget a.toNat }

/-- `(CR[a] & ~m) | (v & m)` (R68). -/
def mergeBits (held mask value : Byte) : Byte := (held &&& ~~~mask) ||| (value &&& mask)

/-! ### The transactions (R65 to R69) -/

/-- What the controller answers in data slot `k` of the next transaction: the outside world's byte, or a free value. -/
def Env.answer (e : Env) (k : Nat) : Byte := (e.answers[k]?).getD (Config.readByte e.draws k)

/-- The bytes received in the first `n` slots, which carry no data and are discarded (R83). -/
def Env.slots (e : Env) (n : Nat) : List Byte := (List.range n).map (Config.slotByte e.draws)

/-- One transaction is over: it is in the trace, and the answers it used are gone. -/
def Env.record (e : Env) (sent received : List Byte) (used : Nat) : Env :=
  { e with answers := e.answers.drop used, draws := e.draws + 1, trace := ⟨sent, received⟩ :: e.trace }

/-- The data bytes that the next read of `n` registers returns: one oracle draw each (R66, R70). -/
def readData (n : Nat) (s : State) : List Byte := (List.range n).map s.env.answer

/-- `MemRead(a, n)` (R66): the state after the transaction `[0x03, a] ++ zeros(n)`. Its result is `readData n s`. -/
def memRead (a : Byte) (n : Nat) (s : State) : State :=
  { s with
    ctl := burst (Controller.observe s.cfg) a.toNat (readData n s) s.ctl
    env := s.env.record (readBytes a n) (s.env.slots 2 ++ readData n s) n }

/-- The byte that the next one-register read returns: `MemRead(a, 1)[0]`. -/
def readByte (s : State) : Byte := s.env.answer 0

/-- `MemWrite(a, n, v)` (R67): the transaction `[0x02, a] ++ v`, with the effect the spec assumes. -/
def memWrite (a : Byte) (v : List Byte) (s : State) : State :=
  { s with
    ctl := burst (Controller.store s.cfg) a.toNat v s.ctl
    env := s.env.record (writeBytes a v) (s.env.slots (v.length + 2)) 0 }

/-- `writeRegister(addr, byte)` as WRREG and SETBAUD use it (R132, R158): `MemWrite(a, 1, [b])`, and the register is left to
the oracle where the controller does not honour the write. -/
def writeRegister (honoured : Bool) (a b : Byte) (s : State) : State :=
  let s' := memWrite a [b] s
  { s' with ctl := s'.ctl.settle honoured a }

/-- WRREG's write (R132). Whether the controller honours it, at a read-only register, at one that it locks outside
Configuration, or at any other, is a free value (log 28). -/
def writeHostRegister (a b : Byte) (s : State) : State := writeRegister (Config.honoured s.env.draws) a b s

/-- SETBAUD's write of a timing register (R158). Outside Configuration, a mode that is not known counting as outside, the
register is left to the oracle (R160, U11); in Configuration it holds what was written (R67; log 7). -/
def writeTiming (a b : Byte) (s : State) : State := writeRegister (s.ctl.mode == some .configuration) a b s

/-- `BitMod(a, m, v)` (R68): the transaction `[0x05, a, m, v]`. Bits outside `m` "keep whatever value the controller gives
them", a free value (log 8). -/
def bitMod (a m v : Byte) (s : State) : State :=
  { s with
    ctl := Controller.store s.cfg a.toNat (mergeBits (Config.heldByte s.env.draws) m v) s.ctl
    env := s.env.record (bitmodBytes a m v) (s.env.slots 4) 0 }

/-- `CtlReset()` (R69): the transaction `[0xC0]`. The controller is assumed to enter Configuration; nothing is known of
any register afterwards (R53). -/
def ctlReset (s : State) : State :=
  { s with
    ctl := Controller.powerOn
    env := s.env.record resetBytes (s.env.slots 1) 0 }

/-- `writeRegisterBit(addr, bitIndex, value)` as a bit-modify (R68, R133). -/
def writeBit (a : Byte) (idx : BitVec 3) (value : Bool) (s : State) : State :=
  bitMod a (bitMask idx) (if value then bitMask idx else 0) s

/-! ### The clock -/

/-- The milliseconds from the last sample to the next. -/
def Env.gap (e : Env) : Nat := e.clockGaps.head?.getD (Config.clockGap e.draws)

/-- Real time at the next sample, not wrapped: it never goes backward (R33). -/
def Env.nextTime (e : Env) : Nat := e.now + e.gap

/-- What the next `Now()` returns: real time modulo 2^W (R16, R33). -/
def clockValue (s : State) : Word := lowBits s.cfg.clockWidth (BitVec.ofNat 32 s.env.nextTime)

/-- The state after a `Now()`. -/
def sampleClock (s : State) : State :=
  { s with
    env := { s.env with clockGaps := s.env.clockGaps.drop 1, now := s.env.nextTime, draws := s.env.draws + 1 } }

/-- `E.start <- Now()` (R173). -/
def sampleStart (s : State) : State :=
  let t := clockValue s
  let s' := sampleClock s
  { s' with eng := { s'.eng with start := t } }

/-- The expiry test of the next clock step: `((Now() - E.start) mod 2^W) >= TIMEOUT.MS` (R172, R175). -/
def expired (s : State) : Bool :=
  decide (s.host.timeout ≤ elapsed s.cfg.clockWidth (clockValue s) s.eng.start)

/-! ### Acceptance and completion -/

/-- `fsm <- RUN(opc, ph)` (R12). -/
def goto (opc : Byte) (ph : Phase) (s : State) : State :=
  { s with eng := { s.eng with fsm := .run opc ph } }

/-- The first phase of a command (R212): the label the pseudocode begins with, or step 0 where it has none. -/
def firstPhase (opc : Byte) : Phase :=
  if opc = Opc.recv then .s0 else if opc = Opc.sniff then .s0 else if opc = Opc.xmit then .s0 else .line 0

/-- Command acceptance (R212): OPC latched, BUSY set, the engine at the command's first phase. -/
def accept (wdata : Word) (s : State) : State :=
  { s with
    host := { s.host with cmd := opcOfWord wdata, status := Status.accepted }
    eng := { s.eng with fsm := .run (opcOfWord wdata) (firstPhase (opcOfWord wdata)) } }

/-- `finish(OK)` (R213). -/
def finish (s : State) : State :=
  { s with host := { s.host with status := Status.succeeded }, eng := { s.eng with fsm := .idle } }

/-- `raise CmdError(code)` (R213). -/
def raise (e : CmdError) (s : State) : State :=
  { s with host := { s.host with status := Status.failed e }, eng := { s.eng with fsm := .idle } }

/-- Write `RESULT` (R34). -/
def setResult (byte : Byte) (awake : Bool) (s : State) : State :=
  { s with host := { s.host with result := ⟨byte, awake⟩ } }

/-- Write F (R27). -/
def setFrame (f : Frame) (s : State) : State := { s with host := { s.host with frame := f } }

/-- One-register read whose byte is latched for the completion step (R130). -/
def readLatch (a : Byte) (s : State) : State :=
  let b := readByte s
  let s' := memRead a 1 s
  { s' with eng := { s'.eng with rxByte := b } }

/-! ### Running a command by phases -/

/-- What a command does: accepted when the engine is idle (R212), one step from its phase while it runs (R17, R35), and
nothing while another command runs, since a second command is ignored (R62, R217). Log 11. -/
def command (opc : Byte) (body : Phase → State → Outcome) (s : State) : Outcome :=
  match s.eng.fsm with
  | .idle => .next (accept (cmdWord opc) s)
  | .run o ph => if o = opc then body ph s else .next s

/-- A procedure without labels: one step for each transaction of `ops`, in order, and then the completion step. -/
def straightLine (opc : Byte) (ops : List (State → State)) (complete : State → State) (ph : Phase) (s : State) :
    Outcome :=
  match ph with
  | .line k =>
    match ops[k]? with
    | some op => .next (goto opc (.line (k + 1)) (op s))
    | none => if k = ops.length then .next (complete s) else .fault .phaseNotOfCommand
  | _ => .fault .phaseNotOfCommand

/-! ### Power-on and the block reset -/

/-- The controller's own power-on (R53): it is in Configuration mode, and none of its registers is known. It is no
transaction, and the block does not see it. -/
def controllerPowerOn (s : State) : State := { s with ctl := Controller.powerOn }

/-- A free frame: the unspecified E.work after a block reset (R230, U7). -/
def freeFrame (n : Nat) : Frame where
  identifier := (Config.resetBits n 1).setWidth 11
  isExtended := (Config.resetBits n 2).getLsbD 0
  extendedIdentifier := (Config.resetBits n 3).setWidth 18
  isRemoteRequest := (Config.resetBits n 4).getLsbD 0
  dataLength := (Config.resetBits n 5).setWidth 4
  data := Payload.ofFn fun i => (Config.resetBits n (6 + i)).setWidth 8

/-- A free header: the unspecified E.hdr after a block reset (R230, U7). -/
def freeHeader (n : Nat) : Header where
  id :=
    ⟨(Config.resetBits n 14).setWidth 8, (Config.resetBits n 15).setWidth 8, (Config.resetBits n 16).setWidth 8,
     (Config.resetBits n 17).setWidth 8⟩
  dlcByte := (Config.resetBits n 18).setWidth 8

/-- What is known of the controller after a block reset. While a command runs, the reset may have cut a transaction
short, and the controller's state is then unspecified (R231, U10; log 18). -/
def ctlAfterReset (s : State) : Controller :=
  match s.eng.fsm with
  | .idle => s.ctl
  | .run _ _ => ⟨[], none⟩

/-- The block reset (R230, R231): host registers 0, fsm IDLE, E.consec 0, the other latches unspecified; a running command
is abandoned without a completion. No transaction is issued. -/
def blockReset (s : State) : State :=
  { s with
    host := HostRegs.reset
    eng :=
      { fsm := .idle
        start := lowBits s.cfg.clockWidth (Config.resetBits s.env.draws 0)
        consec := 0
        work := freeFrame s.env.draws
        hdr := freeHeader s.env.draws
        rxByte := (Config.resetBits s.env.draws 19).setWidth 8 }
    ctl := ctlAfterReset s
    env := { s.env with draws := s.env.draws + 1 } }

end Sys2Proof.Machine
end

