-- ==== Sys2Proof/Machine/Codec.lean ====
section
/-!
DEFINITION. The codec commands ENCID, DECID, ENCCTL, DECCTL and the functions they share with the poll engine
(41_codec.md R110 to R120; layouts of 30_encoding.md R86 to R91).
-/
namespace Sys2Proof.Machine

/-- The extended flag in bit 3 of sidLow (R87). -/
def extBit (ext : Bool) : Byte := if ext then 0x08 else 0x00

/-- `encodeIdentifier` (R111; R86 to R89). -/
def encodeIdentifier (id : BitVec 11) (ext : Bool) (eid : BitVec 18) : PackedId where
  sidh := id.extractLsb' 3 8
  sidl :=
    ((id.extractLsb' 0 3).setWidth 8 <<< 5) ||| extBit ext |||
      (if ext then (eid.extractLsb' 16 2).setWidth 8 else 0)
  eid8 := if ext then eid.extractLsb' 8 8 else 0
  eid0 := if ext then eid.extractLsb' 0 8 else 0

/-- The identifier of `decodeIdentifier`: `{sidh[7:0], sidl[7:5]}` (R112). -/
def decodeId (p : PackedId) : BitVec 11 := p.sidh ++ p.sidl.extractLsb' 5 3

/-- The extended flag of `decodeIdentifier`: `sidl[3]` (R112). -/
def decodeExt (p : PackedId) : Bool := p.sidl.getLsbD 3

/-- The extension of `decodeIdentifier`: `ext ? {sidl[1:0], e8, e0} : 0` (R112). -/
def decodeEid (p : PackedId) : BitVec 18 :=
  if decodeExt p then p.sidl.extractLsb' 0 2 ++ p.eid8 ++ p.eid0 else 0

/-- `encodeControl` (R113; R90). -/
def encodeControl (dlc : BitVec 4) (rtr : Bool) : Byte :=
  (if rtr then 0x40 else 0x00) ||| dlc.setWidth 8

/-- `decodeControl` (R114): none is BAD_DLC, for `dlcb[3:0]` in 9..15. -/
def decodeControl (dlcb : Byte) : Option (BitVec 4 × Bool) :=
  if 8 < dlcb.extractLsb' 0 4 then none else some (dlcb.extractLsb' 0 4, dlcb.getLsbD 6)

/-- Write the decoded identifier fields into a frame; its other fields stay (R112). -/
def Frame.setId (f : Frame) (p : PackedId) : Frame :=
  { f with identifier := decodeId p, isExtended := decodeExt p, extendedIdentifier := decodeEid p }

/-- Write the decoded control fields into a frame; its other fields stay (R114). -/
def Frame.setControl (f : Frame) (dlc : BitVec 4) (rtr : Bool) : Frame :=
  { f with dataLength := dlc, isRemoteRequest := rtr }

/-- The packed identifier bytes of a frame. -/
def Frame.packedId (f : Frame) : PackedId := encodeIdentifier f.identifier f.isExtended f.extendedIdentifier

/-- The data-length input check `F.dataLength > 8` (R115). -/
def Frame.badLength (f : Frame) : Bool := decide (8 < f.dataLength)

/-- The five header bytes of a frame (R86 to R90). -/
def Frame.header (f : Frame) : Header := ⟨f.packedId, encodeControl f.dataLength f.isRemoteRequest⟩

/-- The body of ENCID (R111). -/
def encidStep (s : State) : State := finish { s with host := { s.host with pack := s.host.frame.packedId } }

/-- The body of DECID (R112). -/
def decidStep (s : State) : State := finish (setFrame (s.host.frame.setId s.host.pack) s)

/-- The body of ENCCTL (R113). -/
def encctlStep (s : State) : State :=
  if s.host.frame.badLength then raise .badFrame s
  else
    finish { s with host := { s.host with packDlc := encodeControl s.host.frame.dataLength s.host.frame.isRemoteRequest } }

/-- The body of DECCTL (R114). -/
def decctlStep (s : State) : State :=
  match decodeControl s.host.packDlc with
  | none => raise .badDlc s
  | some (dlc, rtr) => finish (setFrame (s.host.frame.setControl dlc rtr) s)

/-- ENCID (R111): one step from acceptance to completion (R110). -/
def execEncid (s : State) : Outcome := command Opc.encid (straightLine Opc.encid [] encidStep) s

/-- DECID (R112). -/
def execDecid (s : State) : Outcome := command Opc.decid (straightLine Opc.decid [] decidStep) s

/-- ENCCTL (R113). -/
def execEncctl (s : State) : Outcome := command Opc.encctl (straightLine Opc.encctl [] encctlStep) s

/-- DECCTL (R114). -/
def execDecctl (s : State) : Outcome := command Opc.decctl (straightLine Opc.decctl [] decctlStep) s

end Sys2Proof.Machine
end

