-- ==== Sys2Proof/Machine/ModeControl.lean ====
section
/-!
DEFINITION. The mode control commands MNORMAL, MRXONLY, MSLEEP, AWAKE, SETBAUD (43_mode_control.md R150 to R160).
-/
namespace Sys2Proof.Machine

/-- The confirmation read of `CR[A_STAT]`, its byte latched (R150). -/
def readStatus (s : State) : State := readLatch s.cfg.aStat s

/-- `H.RESULT.BYTE <- s ; H.RESULT.AWAKE <- (s[7:5] != 1)` (R151 to R154). -/
def recordStatus (s : State) : State := setResult s.eng.rxByte (awakeOf s.eng.rxByte) s

/-- The completion step of a mode command: RESULT in every case, then success iff OPMODE is the expected code (R150). -/
def confirm (code : BitVec 3) (s : State) : State :=
  if opmode s.eng.rxByte = code then finish (recordStatus s) else raise .modeFailed (recordStatus s)

/-- `BAUD_TABLE(k)` for a supported rate (R158). -/
def timingOf (p : Params) (kbps : BitVec 16) : Option Timing :=
  if kbps = 100 then some p.baud.kbps100
  else if kbps = 125 then some p.baud.kbps125
  else if kbps = 250 then some p.baud.kbps250
  else if kbps = 500 then some p.baud.kbps500
  else none

/-- MNORMAL (R151): control register, clear pending interrupts, disable wake interrupt, confirmation read. -/
def execMnormal (s : State) : Outcome :=
  command Opc.mnormal
    (straightLine Opc.mnormal
      [fun s => memWrite s.cfg.aCtrl [s.cfg.reqNormal] s,
       fun s => memWrite s.cfg.aIntf [0x00] s,
       fun s => writeBit s.cfg.aInte s.cfg.wakieBit false s,
       readStatus]
      (confirm codeNormal)) s

/-- MRXONLY (R152): control register, confirmation read. -/
def execMrxonly (s : State) : Outcome :=
  command Opc.mrxonly
    (straightLine Opc.mrxonly [fun s => memWrite s.cfg.aCtrl [s.cfg.reqReceiveOnly] s, readStatus]
      (confirm codeReceiveOnly)) s

/-- MSLEEP (R153): enable wake interrupt, control register, confirmation read. -/
def execMsleep (s : State) : Outcome :=
  command Opc.msleep
    (straightLine Opc.msleep
      [fun s => writeBit s.cfg.aInte s.cfg.wakieBit true s,
       fun s => memWrite s.cfg.aCtrl [s.cfg.reqSleep] s,
       readStatus]
      (confirm codeSleep)) s

/-- AWAKE (R154): one status read; it always succeeds. -/
def execAwake (s : State) : Outcome :=
  command Opc.awake (straightLine Opc.awake [readStatus] fun s => finish (recordStatus s)) s

/-- SETBAUD (R158): three timing writes of a supported rate; an unsupported rate fails without a transaction.
The mode is not checked, and outside Configuration the three registers are left to the oracle (R160). -/
def execSetbaud (s : State) : Outcome :=
  command Opc.setbaud
    (fun ph s =>
      match ph, timingOf s.cfg s.host.baud with
      | .line _, none => .next (raise .baudUnsupported s)
      | ph, none => straightLine Opc.setbaud [] finish ph s
      | ph, some t =>
        straightLine Opc.setbaud
          [fun s => writeTiming s.cfg.aCnf1 t.cnf1 s,
           fun s => writeTiming s.cfg.aCnf2 t.cnf2 s,
           fun s => writeTiming s.cfg.aCnf3 t.cnf3 s]
          finish ph s) s

end Sys2Proof.Machine
end

