-- ==== Sys2Proof/Machine/PollEngine.lean ====
section
/-!
DEFINITION. The poll engine commands RECV, SNIFF, RECVF, XMIT (44_poll_engine.md R170 to R203). The three receive
commands are one state machine with three policies (R202): `receive` runs the phases of ReceiveOnce, WaitFlag and ReadFrame,
and each command says what follows the base receive's return.
-/
namespace Sys2Proof.Machine

/-- The wait policies of R172. -/
inductive Policy where
  | once
  | timed
  deriving DecidableEq, Repr

/-- FILTER_RETRIES (R7, R190). -/
def filterRetries : Nat := 8

/-- A poll (R171): the state after the read of `CR[A_INTF]`. The bit it tests is that of `readByte`. -/
def poll (s : State) : State := memRead s.cfg.aIntf 1 s

/-- The bit a poll tests (R171). -/
def pollBit (bit : BitVec 3) (s : State) : Bool := bitOf (readByte s) bit

/-- `BitMod(A_INTF, 1 << bit, 0x00)` (R177, R179, R200). -/
def clearFlag (bit : BitVec 3) (s : State) : State := writeBit s.cfg.aIntf bit false s

/-! ### ReadFrame (R176 to R179) -/

/-- SH0 to SH4: read a header byte into E.hdr (R176). -/
def readHeader (k : Fin 5) (s : State) : State :=
  let b := readByte s
  let s' := memRead (rxHeaderAddr s.cfg k) 1 s
  { s' with eng := { s'.eng with hdr := s'.eng.hdr.set k b } }

/-- Set E.work (R38). -/
def setWork (f : Frame) (s : State) : State := { s with eng := { s.eng with work := f } }

/-- What follows the last header read: decode into E.work and go to SD, or to SXB when the DLC is out of range (R176,
R177). -/
def decodeHeader (opc : Byte) (s : State) : State :=
  match decodeControl s.eng.hdr.dlcByte with
  | none => goto opc .sxb s
  | some (dlc, rtr) => goto opc .sd (setWork ((s.eng.work.setId s.eng.hdr.id).setControl dlc rtr) s)

/-- `E.work.data[i] <- d[i] for i in 0 .. n-1` (R178). -/
def Payload.load (p : Payload) (n : Nat) (d : List Byte) : Payload :=
  Payload.ofFn fun i => if i < n then (d[i]?).getD 0 else p.get i

/-- SD: the payload burst, skipped when dataLength = 0 (R178). -/
def readPayload (s : State) : State :=
  let n := s.eng.work.dataLength.toNat
  if n = 0 then s
  else setWork { s.eng.work with data := s.eng.work.data.load n (readData n s) } (memRead s.cfg.aRxd0 n s)

/-- `Commit()` (R178): E.work to F; the bytes beyond dataLength are unspecified, a free value each (U1; log 6). -/
def commit (s : State) : State :=
  let w := s.eng.work
  let data := Payload.ofFn fun i => if i < w.dataLength.toNat then w.data.get i else Config.frameByte s.env.draws i
  let s' := setFrame { w with data := data } s
  { s' with env := { s'.env with draws := s'.env.draws + 1 } }

/-! ### The base receive (R180, R172) -/

/-- SP: the poll step of a base receive (R172). -/
def receivePoll (opc : Byte) (policy : Policy) (s : State) : State :=
  if pollBit s.cfg.rxfBit s then goto opc (.sh 0) (poll s)
  else
    match policy with
    | .once => goto opc (.ret .expired) (poll s)
    | .timed => goto opc .st (poll s)

/-- ST: the clock step of a base receive (R172). -/
def receiveClock (opc : Byte) (s : State) : State :=
  if expired s then goto opc (.ret .expired) (sampleClock s) else goto opc .sp (sampleClock s)

/-- The phases of ReceiveOnce; `onReturn` is what the command does with its result (R180). -/
def receive (opc : Byte) (policy : Policy) (onReturn : RxResult → State → State) (ph : Phase) (s : State) : Outcome :=
  match ph with
  | .s0 =>
    match policy with
    | .timed => .next (goto opc .sp (sampleStart s))
    | .once => .next (goto opc .sp s)
  | .sp => .next (receivePoll opc policy s)
  | .st =>
    match policy with
    | .timed => .next (receiveClock opc s)
    | .once => .fault .phaseNotOfCommand
  | .sh k =>
    match k with
    | 0 => .next (goto opc (.sh 1) (readHeader 0 s))
    | 1 => .next (goto opc (.sh 2) (readHeader 1 s))
    | 2 => .next (goto opc (.sh 3) (readHeader 2 s))
    | 3 => .next (goto opc (.sh 4) (readHeader 3 s))
    | 4 => .next (decodeHeader opc (readHeader 4 s))
  | .sd => .next (goto opc .sxc (readPayload s))
  | .sxc => .next (goto opc (.ret .frame) (clearFlag s.cfg.rxfBit s))
  | .sxb => .next (goto opc (.ret .badDlc) (clearFlag s.cfg.rxfBit s))
  | .ret r => .next (onReturn r s)
  | _ => .fault .phaseNotOfCommand

/-- RECV after its base receive (R180). -/
def recvReturn : RxResult → State → State
  | .expired, s => raise .rxTimeout s
  | .badDlc, s => raise .badDlc s
  | .frame, s => finish (commit s)

/-- SNIFF after its base receive (R182). -/
def sniffReturn : RxResult → State → State
  | .expired, s => raise .noFrame s
  | .badDlc, s => raise .badDlc s
  | .frame, s => finish (commit s)

/-- Set E.consec (R37). -/
def setConsec (n : BitVec 4) (s : State) : State := { s with eng := { s.eng with consec := n } }

/-- RECVF after an expired base receive (R190, R191). -/
def recvfExpired (s : State) : State :=
  let s' := setConsec (s.eng.consec + 1) s
  if filterRetries ≤ s'.eng.consec.toNat then raise .filterExhausted s' else goto Opc.recvf .s0 s'

/-- RECVF after a delivered frame: the match test of R192, or the frame is consumed (R193) and the count is 0 (R191). -/
def recvfFrame (s : State) : State :=
  if s.eng.work.identifier = s.host.target then finish (commit s) else goto Opc.recvf .s0 (setConsec 0 s)

/-- RECVF after each base receive (R190). -/
def recvfReturn : RxResult → State → State
  | .expired, s => recvfExpired s
  | .badDlc, s => raise .badDlc s
  | .frame, s => recvfFrame s

/-- RECV (R180). -/
def execRecv (s : State) : Outcome := command Opc.recv (receive Opc.recv .timed recvReturn) s

/-- SNIFF (R182): a single poll; TIMEOUT is not read and the clock is not sampled. -/
def execSniff (s : State) : Outcome := command Opc.sniff (receive Opc.sniff .once sniffReturn) s

/-- RECVF (R190): `E.consec <- 0`, then base receives with a fresh E.start each. The label SL has no transaction, sample or
test of its own and is no phase here: it is one with S0 of the base receive it begins, and `goto SL` goes to S0 (the model's
choice, log 10). -/
def execRecvf (s : State) : Outcome :=
  command Opc.recvf
    (fun ph s =>
      match ph with
      | .line 0 => .next (goto Opc.recvf .s0 (setConsec 0 s))
      | ph => receive Opc.recvf .timed recvfReturn ph s) s

/-! ### XMIT (R194 to R200) -/

/-- S0: the data-length check, before any transaction (R195). -/
def xmitCheck (s : State) : State :=
  if s.host.frame.badLength then raise .badFrame s else goto Opc.xmit (.th 0) s

/-- TH0 to TH4: write a header byte (R196). F cannot change while the command runs, so its header is packed anew in each
step (log 23). -/
def writeHeader (k : Fin 5) (s : State) : State :=
  memWrite (txHeaderAddr s.cfg k) [s.host.frame.header.get k] s

/-- TD: the payload write, skipped when dataLength = 0 (R194). -/
def writePayload (s : State) : State :=
  let n := s.host.frame.dataLength.toNat
  if n = 0 then s else memWrite s.cfg.aTxd0 (s.host.frame.data.take n) s

/-- TR and TA: set or clear the transmit request (R196, R199). -/
def transmitRequest (on : Bool) (s : State) : State := writeBit s.cfg.aTxctrl s.cfg.txreqBit on s

/-- SP: the poll step of the transmit wait (R197). -/
def xmitPoll (s : State) : State :=
  if pollBit s.cfg.txfBit s then goto Opc.xmit (.tc .set) (poll s) else goto Opc.xmit .st (poll s)

/-- ST: the clock step of the transmit wait (R197). -/
def xmitClock (s : State) : State :=
  if expired s then goto Opc.xmit .ta (sampleClock s) else goto Opc.xmit .sp (sampleClock s)

/-- The completion step: success when the wait ended SET (R198), TX_TIMEOUT otherwise (R199). -/
def xmitFinish : Wait → State → State
  | .set, s => finish s
  | .expired, s => raise .txTimeout s

/-- The phases of XMIT (R194). -/
def xmitBody (ph : Phase) (s : State) : Outcome :=
  match ph with
  | .s0 => .next (xmitCheck s)
  | .th k =>
    match k with
    | 0 => .next (goto Opc.xmit (.th 1) (writeHeader 0 s))
    | 1 => .next (goto Opc.xmit (.th 2) (writeHeader 1 s))
    | 2 => .next (goto Opc.xmit (.th 3) (writeHeader 2 s))
    | 3 => .next (goto Opc.xmit (.th 4) (writeHeader 3 s))
    | 4 => .next (goto Opc.xmit .td (writeHeader 4 s))
  | .td => .next (goto Opc.xmit .tr (writePayload s))
  | .tr => .next (goto Opc.xmit .ts (transmitRequest true s))
  | .ts => .next (goto Opc.xmit .sp (sampleStart s))
  | .sp => .next (xmitPoll s)
  | .st => .next (xmitClock s)
  | .ta => .next (goto Opc.xmit (.tc .expired) (transmitRequest false s))
  | .tc w => .next (goto Opc.xmit (.fin w) (clearFlag s.cfg.txfBit s))
  | .fin w => .next (xmitFinish w s)
  | _ => .fault .phaseNotOfCommand

/-- XMIT (R194). -/
def execXmit (s : State) : Outcome := command Opc.xmit xmitBody s

end Sys2Proof.Machine
end

