-- ==== Sys2Proof/Machine/RegisterAccess.lean ====
section
/-!
DEFINITION. The register access commands RDREG, WRREG, WRBIT, CRESET (42_register_access.md R130 to R138): "Their steps
are the transaction step, then the completion step" (R130).
-/
namespace Sys2Proof.Machine

/-- RDREG (R131): `[0x03, ADDR, 0x00]`, then RESULT. -/
def execRdreg (s : State) : Outcome :=
  command Opc.rdreg
    (straightLine Opc.rdreg [fun s => readLatch s.host.regAddr s] fun s => finish (setResult s.eng.rxByte false s)) s

/-- WRREG (R132): `[0x02, ADDR, DATA]`; whether the controller honours it is a free value (log 28). -/
def execWrreg (s : State) : Outcome :=
  command Opc.wrreg (straightLine Opc.wrreg [fun s => writeHostRegister s.host.regAddr s.host.regData s] finish) s

/-- WRBIT (R133): `[0x05, ADDR, 1 << IDX, VAL ? (1 << IDX) : 0x00]`. -/
def execWrbit (s : State) : Outcome :=
  command Opc.wrbit
    (straightLine Opc.wrbit [fun s => writeBit s.host.regAddr s.host.regBit.idx s.host.regBit.val s] finish) s

/-- CRESET (R137): `[0xC0]`, no wait and no confirmation (R138). -/
def execCreset (s : State) : Outcome := command Opc.creset (straightLine Opc.creset [ctlReset] finish) s

end Sys2Proof.Machine
end

