-- ==== Sys2Proof/Machine/Transport.lean ====
section
/-!
DEFINITION. The transport commands (30_encoding.md R82, R83): the four transactions that the block emits are the shared
operations of Ops.lean, so the engine's own transactions and these rows cannot differ. The four commands that the source
lists without layout or effect stop by name (N18, U29; log 16).
-/
namespace Sys2Proof.Machine

/-- CTL_RESET (R83, R69). -/
def execCtlReset (s : State) : Outcome := .next (ctlReset s)

/-- CTL_READ (R83, R66). -/
def execCtlRead (addr : Byte) (n : Nat) (s : State) : Outcome := .next (memRead addr n s)

/-- CTL_WRITE (R83, R67). -/
def execCtlWrite (addr : Byte) (data : List Byte) (s : State) : Outcome := .next (memWrite addr data s)

/-- CTL_BITMOD (R83, R68). -/
def execCtlBitmod (addr mask value : Byte) (s : State) : Outcome := .next (bitMod addr mask value s)

/-- CTL_READ_RX_BUFFER (R82): layout and effect not in the source. -/
def execCtlReadRxBuffer (_ : State) : Outcome := .refused .transportLayoutNotInSource

/-- CTL_LOAD_TX_BUFFER (R82): layout and effect not in the source. -/
def execCtlLoadTxBuffer (_ : State) : Outcome := .refused .transportLayoutNotInSource

/-- CTL_REQUEST_TO_SEND (R82): layout and effect not in the source. -/
def execCtlRequestToSend (_ : State) : Outcome := .refused .transportLayoutNotInSource

/-- CTL_READ_STATUS (R82): layout and effect not in the source. -/
def execCtlReadStatus (_ : State) : Outcome := .refused .transportLayoutNotInSource

end Sys2Proof.Machine
end

