-- ==== Sys2Proof/Machine/Dispatch.lean ====
section
/-!
DEFINITION. One arm for each constructor of Instr.
-/
namespace Sys2Proof.Machine

def exec (i : Instr) (s : State) : Host.Outcome State Fault Refusal :=
  match i with
  | .encid => Sys2Proof.Machine.execEncid s
  | .decid => Sys2Proof.Machine.execDecid s
  | .encctl => Sys2Proof.Machine.execEncctl s
  | .decctl => Sys2Proof.Machine.execDecctl s
  | .rdreg => Sys2Proof.Machine.execRdreg s
  | .wrreg => Sys2Proof.Machine.execWrreg s
  | .wrbit => Sys2Proof.Machine.execWrbit s
  | .creset => Sys2Proof.Machine.execCreset s
  | .mnormal => Sys2Proof.Machine.execMnormal s
  | .mrxonly => Sys2Proof.Machine.execMrxonly s
  | .msleep => Sys2Proof.Machine.execMsleep s
  | .awake => Sys2Proof.Machine.execAwake s
  | .setbaud => Sys2Proof.Machine.execSetbaud s
  | .recv => Sys2Proof.Machine.execRecv s
  | .sniff => Sys2Proof.Machine.execSniff s
  | .recvf => Sys2Proof.Machine.execRecvf s
  | .xmit => Sys2Proof.Machine.execXmit s
  | .ctlReset => Sys2Proof.Machine.execCtlReset s
  | .ctlRead addr n => Sys2Proof.Machine.execCtlRead addr n s
  | .ctlWrite addr data => Sys2Proof.Machine.execCtlWrite addr data s
  | .ctlBitmod addr mask value => Sys2Proof.Machine.execCtlBitmod addr mask value s
  | .ctlReadRxBuffer => Sys2Proof.Machine.execCtlReadRxBuffer s
  | .ctlLoadTxBuffer => Sys2Proof.Machine.execCtlLoadTxBuffer s
  | .ctlRequestToSend => Sys2Proof.Machine.execCtlRequestToSend s
  | .ctlReadStatus => Sys2Proof.Machine.execCtlReadStatus s

end Sys2Proof.Machine
end

