-- ==== Sys2Proof/Machine/HostInterface.lean ====
section
/-!
DEFINITION. Which agent moves: the host's accesses to its register window (20_memory.md R60 to R62), the block reset
(70_reset_and_hazards.md R230), the controller's power-on (10_state.md R53), the engine's step (10_state.md R35), and a transaction on the transport port (log 14).
-/
namespace Sys2Proof.Machine

/-- A host access is 32 bits wide, at a multiple of 4, inside the 256-byte window (R60, R61). -/
def legalAccess (offset width : Nat) : Bool :=
  decide (width = 32) && decide (offset % 4 = 0) && decide (offset < 256)

/-- What a host read at a legal offset returns; a reserved offset reads 0 (R61). -/
def hostValue (offset : Nat) (s : State) : Word :=
  match HostReg.atOffset offset with
  | some r => s.host.read r
  | none => 0

/-- A host read (R61, R62): always served, no side effect. -/
def hostRead (offset width : Nat) (s : State) : Outcome :=
  if legalAccess offset width then .next { s with env := { s.env with rdata := hostValue offset s } }
  else .refused .hostAccessOutsideInterface

/-- What a legal host write does while the engine is idle: a command is accepted (R212), an operand register written, a
read-only register or a reserved offset left alone (R61). -/
def hostWriteIdle (offset : Nat) (wdata : Word) (s : State) : State :=
  match HostReg.atOffset offset with
  | none => s
  | some r => if r = .cmd then accept wdata s else { s with host := s.host.write s.cfg.clockWidth r wdata }

/-- A host write (R61, R62): ignored while BUSY = 1. -/
def hostWrite (offset width : Nat) (wdata : Word) (s : State) : Outcome :=
  if legalAccess offset width then .next (if s.host.status.busy then s else hostWriteIdle offset wdata s)
  else .refused .hostAccessOutsideInterface

/-- One round of `wait` (R93): the host reads STATUS, and while BUSY = 1 the engine moves and the host reads again. -/
def hostWait (s : State) : State :=
  let s' := { s with env := { s.env with rdata := s.host.status.toWord } }
  if s.host.status.busy then { s' with env := { s'.env with inputs := .engine :: .wait :: s'.env.inputs } } else s'

/-- One engine step (R17, R35): the command that OPC names, from its phase; an illegal OPC completes with ILLEGAL_CMD
(R84); IDLE waits for a command (R232). -/
def engineStep (s : State) : Outcome :=
  match s.eng.fsm with
  | .idle => .next s
  | .run opc _ =>
    match decodeOpc opc with
    | some i => exec i s
    | none => .next (raise .illegalCmd s)

/-- One move of the agent that an input names. -/
def inputStep (i : Input) (s : State) : Outcome :=
  match i with
  | .read offset width => hostRead offset width s
  | .write offset width wdata => hostWrite offset width wdata s
  | .wait => .next (hostWait s)
  | .engine => engineStep s
  | .blockReset => .next (blockReset s)
  | .controllerPowerOn => .next (controllerPowerOn s)

/-- A transaction on the transport port: decoded, and run (R82, R83). -/
def portStep (bytes : List Byte) (s : State) : Outcome :=
  match decodeXact bytes with
  | .ok i => exec i s
  | .reject _ => .refused .notATransaction

/-- The port is taken. -/
def clearPort (s : State) : State := { s with env := { s.env with port := none } }

/-- The inputs that remain. -/
def setInputs (l : List Input) (s : State) : State := { s with env := { s.env with inputs := l } }

end Sys2Proof.Machine
end

