-- ==== Sys2Proof/Machine/Step.lean ====
section
/-!
DEFINITION. One step of the machine: a transaction on the port first, then the agent that the head of the inputs names,
and the engine when no input is left (R72; logs 12 to 14).
-/
namespace Sys2Proof.Machine

def step (s : State) : Host.Outcome State Fault Refusal :=
  match s.env.port with
  | some bytes => portStep bytes (clearPort s)
  | none =>
    match s.env.inputs with
    | [] => engineStep s
    | i :: rest => inputStep i (setInputs rest s)

/-- The state in which the very next step runs the instruction of a row of the opcode table. A command (rows wider than 8
bits) runs from its acceptance (R212), and the engine moves next. A transport command (rows of 8 bits) is put on the port,
the bytes the table gives no bits to being 0. Logs 13 to 15. -/
def State.withFetchWord (s : State) (nbits w : Nat) : State :=
  if nbits ≤ 8 then { s with env := { s.env with port := some (tableXact w) } }
  else
    let s' := accept (BitVec.ofNat 32 w) s
    { s' with env := { s'.env with port := none, inputs := .engine :: s'.env.inputs } }

end Sys2Proof.Machine
end

