-- ==== Sys2Proof/Safety.lean ====
section
/-!
DEFINITION. What counts as a good state, in the terms the statements use: the legal states of STATUS (10_state.md R24), the
phases of each command (R35), the bounds of the latches (R36, R37), the transactions the block emits (30_encoding.md R83),
and the invariant made of them; and a command's own run, one exec after another.
-/
namespace Sys2Proof.Machine

/-- The legal states of STATUS (R24): never BUSY and DONE, and OK = 1 implies ERR = 0; while BUSY, OK = 0 and ERR = 0; and
the codes 9 to 14 are never produced (R211). -/
def Status.legal (st : Status) : Bool :=
  !(st.busy && st.done) && (!st.ok || st.err == 0) && (!st.busy || (!st.ok && st.err == 0))
    && (decide (st.err.toNat ≤ 8) || st.err == 15)

/-- A command is running (R35). -/
def Fsm.running : Fsm → Bool
  | .idle => false
  | .run _ _ => true

/-- The phases of a base receive under a policy (R172, R180). -/
def receivePhase (policy : Policy) : Phase → Bool
  | .s0 | .sp | .sh _ | .sd | .sxc | .sxb | .ret _ => true
  | .st => policy == .timed
  | .line _ | .th _ | .td | .tr | .ts | .ta | .tc _ | .fin _ => false

/-- The phases of XMIT (R194). -/
def xmitPhase : Phase → Bool
  | .s0 | .sp | .st | .th _ | .td | .tr | .ts | .ta | .tc _ | .fin _ => true
  | .line _ | .sh _ | .sd | .sxc | .sxb | .ret _ => false

/-- The steps of a procedure without labels: `n` transactions and the completion. -/
def linePhase (n : Nat) : Phase → Bool
  | .line k => decide (k ≤ n)
  | .s0 | .sp | .st | .sh _ | .sd | .sxc | .sxb | .ret _ | .th _ | .td | .tr | .ts | .ta | .tc _ | .fin _ => false

/-- The phases of an instruction (R35). The transport commands have none. -/
def hasPhase : Instr → Phase → Bool
  | .encid, ph | .decid, ph | .encctl, ph | .decctl, ph => linePhase 0 ph
  | .rdreg, ph | .wrreg, ph | .wrbit, ph | .creset, ph | .awake, ph => linePhase 1 ph
  | .mnormal, ph => linePhase 4 ph
  | .mrxonly, ph => linePhase 2 ph
  | .msleep, ph | .setbaud, ph => linePhase 3 ph
  | .recv, ph => receivePhase .timed ph
  | .sniff, ph => receivePhase .once ph
  | .recvf, ph => linePhase 0 ph || receivePhase .timed ph
  | .xmit, ph => xmitPhase ph
  | .ctlReset, _ | .ctlRead _ _, _ | .ctlWrite _ _, _ | .ctlBitmod _ _ _, _ | .ctlReadRxBuffer, _ | .ctlLoadTxBuffer, _
  | .ctlRequestToSend, _ | .ctlReadStatus, _ => false

/-- The phases that go with an opcode; an illegal opcode has the one step that rejects it (R84). -/
def legalPhase (opc : Byte) (ph : Phase) : Bool :=
  match decodeOpc opc with
  | some i => hasPhase i ph
  | none => linePhase 0 ph

/-- The phases in which E.work holds a decoded header (R176). -/
def decodedPhase : Phase → Bool
  | .sd | .sxc | .ret .frame => true
  | .ret .expired | .ret .badDlc | .line _ | .s0 | .sp | .st | .sh _ | .sxb | .th _ | .td | .tr | .ts | .ta | .tc _
  | .fin _ => false

/-- A transaction that the block may emit (R83): as many bytes received as sent (R15), and the bytes sent are a reset, a
read, a write or a bit-modify. -/
def Transaction.emitted (t : Transaction) : Bool :=
  t.sent.length == t.received.length &&
    match decodeXact t.sent with
    | .ok .ctlReset | .ok (.ctlRead _ _) | .ok (.ctlWrite _ _) | .ok (.ctlBitmod _ _ _) => true
    | _ => false

/-- The invariant of the machine. -/
structure State.Inv (s : State) : Prop where
  /-- The parameters are well-formed (R8, R64). -/
  params : s.cfg.wf = true
  /-- STATUS is in a legal state (R24, R211). -/
  status : s.host.status.legal = true
  /-- BUSY = 1 exactly while a command runs (R24, R35). -/
  busy : s.host.status.busy = s.eng.fsm.running
  /-- The running command is the one CMD names (R23), in a phase of its own (R35). -/
  control : ∀ opc ph, s.eng.fsm = .run opc ph → s.host.cmd = opc ∧ legalPhase opc ph = true
  /-- TIMEOUT has W bits (R25). -/
  timeout : s.host.timeout.toNat < 2 ^ s.cfg.clockWidth
  /-- E.start has W bits (R36). -/
  start : s.eng.start.toNat < 2 ^ s.cfg.clockWidth
  /-- E.consec counts 0..8 (R37). -/
  consec : s.eng.consec.toNat ≤ 8
  /-- A running RECVF has not given up yet (R191). -/
  retries : ∀ ph, s.eng.fsm = .run Opc.recvf ph → ph ≠ .line 0 → s.eng.consec.toNat < filterRetries
  /-- A decoded header has a data length of at most 8 (R177). -/
  workLength : ∀ opc ph, s.eng.fsm = .run opc ph → decodedPhase ph = true → s.eng.work.dataLength.toNat ≤ 8
  /-- XMIT has checked F.dataLength once it is past S0 (R195). -/
  xmitLength : ∀ ph, s.eng.fsm = .run Opc.xmit ph → ph ≠ .s0 → s.host.frame.dataLength.toNat ≤ 8
  /-- The controller registers are in canonical form (R60). -/
  memory : s.ctl.cr.wf = true
  /-- Every transaction made is one that the block may emit (R83). -/
  trace : ∀ t ∈ s.env.trace, t.emitted = true

/-- `k` steps of one instruction, one exec after another, stopping at the first fault or refusal. -/
def execs (i : Instr) : Nat → State → Outcome
  | 0, s => .next s
  | k + 1, s =>
    match exec i s with
    | .next t => execs i k t
    | .fault r => .fault r
    | .refused r => .refused r

/-- The engine is at a phase of a command. -/
abbrev State.at (s : State) (opc : Byte) (ph : Phase) : Prop := s.eng.fsm = .run opc ph

/-- The bytes sent in the transactions made, newest first. -/
def State.sent (s : State) : List (List Byte) := s.env.trace.map (·.sent)

/-- Every controller register is as before, outside the addresses that `touched` names. -/
def sameRegs (touched : Nat → Prop) (s t : State) : Prop := ∀ x, ¬ touched x → t.ctl.cr.read x = s.ctl.cr.read x

/-- The address of byte `k` of a burst from `a` (R64: modulo 256). -/
def burstAddr (a : Byte) (k : Nat) : Nat := (a.toNat + k) % 256

/-- Real time modulo 2^W at the next sample, less E.start, modulo 2^W (R175), as a number. -/
def elapsedMs (s : State) : Nat :=
  (s.env.nextTime % 2 ^ s.cfg.clockWidth + 2 ^ s.cfg.clockWidth - s.eng.start.toNat) % 2 ^ s.cfg.clockWidth

/-- A command that waits for a flag (R172): its opcode, the flag it polls, and the phases after SET and EXPIRED. -/
structure Waiter where
  instr : Instr
  opc : Byte
  bit : Params → BitVec 3
  onSet : Phase
  onExpired : Phase

/-- The commands that wait under the TIMED policy (R180, R190, R194). -/
def timedWaiters : List Waiter :=
  [⟨.recv, Opc.recv, Params.rxfBit, .sh 0, .ret .expired⟩, ⟨.recvf, Opc.recvf, Params.rxfBit, .sh 0, .ret .expired⟩,
   ⟨.xmit, Opc.xmit, Params.txfBit, .tc .set, .ta⟩]

/-- What the controller answers to the reads of a base receive that finds a frame: the flags at the poll (R171), the five
header bytes (R176), and the payload (R178). -/
structure Arrival where
  flags : Byte
  h0 : Byte
  h1 : Byte
  h2 : Byte
  h3 : Byte
  h4 : Byte
  data : List Byte
  deriving DecidableEq, Repr

/-- The answers, in the order of the reads. -/
def Arrival.answers (a : Arrival) : List Byte := a.flags :: a.h0 :: a.h1 :: a.h2 :: a.h3 :: a.h4 :: a.data

/-- The frame is there, has a data length in range and as many payload bytes, and its identifier is not `target` (R192). -/
def Arrival.passesBy (a : Arrival) (p : Params) (target : BitVec 11) : Prop :=
  a.flags.getLsbD p.rxfBit.toNat = true ∧ a.h4.toNat % 16 ≤ 8 ∧ a.data.length = a.h4.toNat % 16 ∧
    a.h0.toNat * 8 + a.h1.toNat / 32 ≠ target.toNat

/-- The mode that a status byte reports, its top three bits being 0, 1 or 3 (R43); any other code reports none that the
source names (log 9). -/
def reportedMode (status : Byte) : Option CtlMode :=
  if status.toNat / 32 = 0 then some .normal
  else if status.toNat / 32 = 1 then some .sleep
  else if status.toNat / 32 = 3 then some .receiveOnly
  else none

/-- The commands that receive a frame (R180, R182, R190). -/
def receivers : List (Instr × Byte) := [(.recv, Opc.recv), (.sniff, Opc.sniff), (.recvf, Opc.recvf)]

end Sys2Proof.Machine
end

