-- ==== Sys2Proof/Certificates/Slice0/Obligations.lean ====
section
/-!
DEFINITION. The statements for the provers. A statement about an instruction gives the next state whole: the host
registers, the latches, the parameters and the outside world by equations, and the controller registers through
`Memory.read`. A trace is newest first. The fields of `env` and the latch `eng.rxByte` are the model's own (logs 4, 5, 12,
14, 19, 21), and `ctl` is the model's record of the effects that the spec assumes of the block's transactions (log 7).
-/
open Sys2Proof Sys2Proof.Machine

/-! ### Encoding -/

/-- R80 to R83: no bit of an encoding is dropped. -/
def Obligations.DecodeOfEncodeIsTheInstruction : Prop :=
  ∀ i : Instr, i.wf = true → decode (encode i) = .ok i

/-- R83: a transaction that the block emits has one meaning, which is well-formed and encodes back to the same bytes. That a
read slot must be 0x00 is the decoder's choice (log 25). -/
def Obligations.EncodeOfDecodedTransaction : Prop :=
  ∀ (bytes : List Byte) (i : Instr), decodeXact bytes = .ok i →
    i ∉ [Instr.ctlReadRxBuffer, .ctlLoadTxBuffer, .ctlRequestToSend, .ctlReadStatus] →
    i.wf = true ∧ encode i = .xact bytes

/-- R81, R83: words written out from the spec's tables decode to the instructions they stand for. -/
def Obligations.SampleWordsDecode : Prop :=
  decodeCmd 0x00000001 = .ok .encid ∧ decodeCmd 0x00000010 = .ok .rdreg ∧ decodeCmd 0x00000022 = .ok .msleep ∧
    decodeCmd 0x00000033 = .ok .xmit ∧ decodeXact [0x03, 0x2C, 0x00] = .ok (.ctlRead 0x2C 1) ∧
    decodeXact [0x02, 0x36, 0xAA, 0xBB] = .ok (.ctlWrite 0x36 [0xAA, 0xBB]) ∧
    decodeXact [0x05, 0x30, 0x08, 0x00] = .ok (.ctlBitmod 0x30 0x08 0x00) ∧ decodeXact [0xC0] = .ok .ctlReset

/-- R84, whole: which opcodes are illegal, that such a CMD write of an idle block is accepted, and that it then completes
with ILLEGAL_CMD, with no transaction and no register written but STATUS and CMD. Bits [31:8] do not matter. -/
def Obligations.IllegalOpcodeCompletesWithIllegalCmd : Prop :=
  ∀ w : Word,
    ((∃ r, decodeCmd w = .reject r) ↔
      (w.toNat % 256 = 0 ∨ (0x05 ≤ w.toNat % 256 ∧ w.toNat % 256 ≤ 0x0F) ∨
        (0x14 ≤ w.toNat % 256 ∧ w.toNat % 256 ≤ 0x1F) ∨ (0x25 ≤ w.toNat % 256 ∧ w.toNat % 256 ≤ 0x2F) ∨
        0x34 ≤ w.toNat % 256)) ∧
    ∀ (s : State) (rest : List Input), (∃ r, decodeCmd w = .reject r) → s.env.port = none → s.eng.fsm = .idle →
      s.host.status.busy = false → s.env.inputs = .write 0x00 32 w :: .engine :: rest →
      Host.Core.run Sys2Proof.core 2 s =
        .next
          { s with
            host := { s.host with cmd := BitVec.ofNat 8 w.toNat, status := ⟨false, true, false, 15⟩ }
            env := { s.env with inputs := rest } }

/-- R80: bits [31:8] of a command word are ignored. -/
def Obligations.CommandWordIgnoresUpperBits : Prop :=
  ∀ v w : Word, v.toNat % 256 = w.toNat % 256 →
    (decodeCmd v).toOption = (decodeCmd w).toOption ∧ ∀ s : State, accept v s = accept w s

/-! ### Codec -/

/-- R116, whole. -/
def Obligations.IdentifierRoundTrip : Prop :=
  ∀ (id : BitVec 11) (ext : Bool) (eid : BitVec 18),
    decodeId (encodeIdentifier id ext eid) = id ∧ decodeExt (encodeIdentifier id ext eid) = ext ∧
      decodeEid (encodeIdentifier id ext eid) = if ext then eid else 0

/-- R117, whole. -/
def Obligations.ControlByteRoundTrip : Prop :=
  ∀ (dlc : BitVec 4) (rtr : Bool), dlc.toNat ≤ 8 → decodeControl (encodeControl dlc rtr) = some (dlc, rtr)

/-- R118, whole: the ignored bits do not change what is decoded, and encoding a decoded header gives it back exactly when
its ignored bits are 0. -/
def Obligations.IgnoredHeaderBits : Prop :=
  (∀ p q : PackedId, p.sidh = q.sidh → p.sidl &&& 0xE8 = q.sidl &&& 0xE8 →
      (p.sidl.getLsbD 3 = true → p.sidl &&& 0x03 = q.sidl &&& 0x03 ∧ p.eid8 = q.eid8 ∧ p.eid0 = q.eid0) →
      decodeId p = decodeId q ∧ decodeExt p = decodeExt q ∧ decodeEid p = decodeEid q) ∧
  (∀ p : PackedId,
      encodeIdentifier (decodeId p) (decodeExt p) (decodeEid p) = p ↔
        p.sidl &&& 0x14 = 0 ∧ (p.sidl.getLsbD 3 = false → p.sidl &&& 0x03 = 0 ∧ p.eid8 = 0 ∧ p.eid0 = 0)) ∧
  (∀ b c : Byte, b &&& 0x4F = c &&& 0x4F → decodeControl b = decodeControl c) ∧
  (∀ (b : Byte) (dlc : BitVec 4) (rtr : Bool), decodeControl b = some (dlc, rtr) →
      (encodeControl dlc rtr = b ↔ b &&& 0xB0 = 0))

/-- R111, whole: ENCID completes, PACK gets the packed bytes, and nothing else changes but STATUS and the phase. -/
def Obligations.EncidPacksTheIdentifier : Prop :=
  ∀ s : State, s.at Opc.encid (.line 0) →
    ∃ t, exec .encid s = .next t ∧
      t = { s with
            host := { s.host with pack := t.host.pack, status := ⟨false, true, true, 0⟩ }
            eng := { s.eng with fsm := .idle } } ∧
      t.host.pack.sidh.toNat = s.host.frame.identifier.toNat / 8 ∧
      t.host.pack.sidl.toNat =
        s.host.frame.identifier.toNat % 8 * 32 +
          (if s.host.frame.isExtended then 8 + s.host.frame.extendedIdentifier.toNat / 65536 else 0) ∧
      t.host.pack.eid8.toNat =
        (if s.host.frame.isExtended then s.host.frame.extendedIdentifier.toNat / 256 % 256 else 0) ∧
      t.host.pack.eid0.toNat =
        (if s.host.frame.isExtended then s.host.frame.extendedIdentifier.toNat % 256 else 0) ∧
      (t.host.read .pack).toNat =
        t.host.pack.sidh.toNat + 2 ^ 8 * t.host.pack.sidl.toNat + 2 ^ 16 * t.host.pack.eid8.toNat +
          2 ^ 24 * t.host.pack.eid0.toNat

/-- R112, whole: DECID completes, writes the three identifier fields of F, and leaves its other fields. -/
def Obligations.DecidUnpacksTheIdentifier : Prop :=
  ∀ s : State, s.at Opc.decid (.line 0) →
    ∃ t, exec .decid s = .next t ∧
      t = { s with
            host :=
              { s.host with
                frame :=
                  { s.host.frame with
                    identifier := t.host.frame.identifier
                    isExtended := t.host.frame.isExtended
                    extendedIdentifier := t.host.frame.extendedIdentifier }
                status := ⟨false, true, true, 0⟩ }
            eng := { s.eng with fsm := .idle } } ∧
      t.host.frame.identifier.toNat = s.host.pack.sidh.toNat * 8 + s.host.pack.sidl.toNat / 32 ∧
      t.host.frame.isExtended = decide (s.host.pack.sidl.toNat / 8 % 2 = 1) ∧
      t.host.frame.extendedIdentifier.toNat =
        (if s.host.pack.sidl.toNat / 8 % 2 = 1 then
          s.host.pack.sidl.toNat % 4 * 65536 + s.host.pack.eid8.toNat * 256 + s.host.pack.eid0.toNat
        else 0)

/-- R113, whole: ENCCTL packs a data length of at most 8, and fails with BAD_FRAME on any other. -/
def Obligations.EncctlPacksOrRejects : Prop :=
  ∀ s : State, s.at Opc.encctl (.line 0) →
    (s.host.frame.dataLength.toNat ≤ 8 →
      ∃ t, exec .encctl s = .next t ∧
        t = { s with
              host := { s.host with packDlc := t.host.packDlc, status := ⟨false, true, true, 0⟩ }
              eng := { s.eng with fsm := .idle } } ∧
        t.host.packDlc.toNat =
          s.host.frame.dataLength.toNat + (if s.host.frame.isRemoteRequest then 64 else 0)) ∧
    (8 < s.host.frame.dataLength.toNat →
      exec .encctl s =
        .next
          { s with
            host := { s.host with status := ⟨false, true, false, 6⟩ }
            eng := { s.eng with fsm := .idle } })

/-- R114, whole: DECCTL writes the two control fields of F, and fails with BAD_DLC on a length of 9 to 15. -/
def Obligations.DecctlUnpacksOrRejects : Prop :=
  ∀ s : State, s.at Opc.decctl (.line 0) →
    (s.host.packDlc.toNat % 16 ≤ 8 →
      ∃ t, exec .decctl s = .next t ∧
        t = { s with
              host :=
                { s.host with
                  frame :=
                    { s.host.frame with
                      dataLength := t.host.frame.dataLength, isRemoteRequest := t.host.frame.isRemoteRequest }
                  status := ⟨false, true, true, 0⟩ }
              eng := { s.eng with fsm := .idle } } ∧
        t.host.frame.dataLength.toNat = s.host.packDlc.toNat % 16 ∧
        t.host.frame.isRemoteRequest = decide (s.host.packDlc.toNat / 64 % 2 = 1)) ∧
    (8 < s.host.packDlc.toNat % 16 →
      exec .decctl s =
        .next
          { s with
            host := { s.host with status := ⟨false, true, false, 5⟩ }
            eng := { s.eng with fsm := .idle } })

/-! ### Register access -/

/-- R131: RDREG makes the one read of ADDR, and RESULT gets the byte the controller answered, with AWAKE 0. That the record
of the register is then that byte (R66, R70) is the model's choice (log 7). -/
def Obligations.RdregReadsOneRegister : Prop :=
  ∀ s : State, s.at Opc.rdreg (.line 0) →
    ∃ t, execs .rdreg 2 s = .next t ∧
      t.host = { s.host with result := ⟨readByte s, false⟩, status := ⟨false, true, true, 0⟩ } ∧
      (∀ b rest, s.env.answers = b :: rest → t.host.result.byte = b) ∧
      t.eng = { s.eng with fsm := .idle, rxByte := t.eng.rxByte } ∧ t.cfg = s.cfg ∧
      t.sent = [0x03, s.host.regAddr, 0x00] :: s.sent ∧
      t.env = { s.env with answers := s.env.answers.drop 1, draws := t.env.draws, trace := t.env.trace } ∧
      t.ctl.cr.read s.host.regAddr.toNat = some (readByte s) ∧ sameRegs (· = s.host.regAddr.toNat) s t

/-- R132: WRREG makes the one write of DATA at ADDR; RESULT is unchanged. Whether the controller honours the write is its own
affair (R132): the record of the register is DATA where a free value says that it does (log 28), and nothing otherwise, so
the register is left to the oracle. -/
def Obligations.WrregWritesOneRegister : Prop :=
  ∀ s : State, s.at Opc.wrreg (.line 0) →
    ∃ t, execs .wrreg 2 s = .next t ∧ t.host = { s.host with status := ⟨false, true, true, 0⟩ } ∧
      t.eng = { s.eng with fsm := .idle } ∧ t.cfg = s.cfg ∧
      t.sent = [0x02, s.host.regAddr, s.host.regData] :: s.sent ∧
      t.env = { s.env with draws := t.env.draws, trace := t.env.trace } ∧
      t.ctl.cr.read s.host.regAddr.toNat =
        (if Config.honoured s.env.draws then some s.host.regData else none) ∧
      sameRegs (· = s.host.regAddr.toNat) s t

/-- R133: WRBIT makes the one bit-modify of bit IDX at ADDR; that bit is VAL afterwards, and RESULT is unchanged. -/
def Obligations.WrbitModifiesOneBit : Prop :=
  ∀ s : State, s.at Opc.wrbit (.line 0) →
    ∃ t, execs .wrbit 2 s = .next t ∧ t.host = { s.host with status := ⟨false, true, true, 0⟩ } ∧
      t.eng = { s.eng with fsm := .idle } ∧ t.cfg = s.cfg ∧
      t.sent =
        [0x05, s.host.regAddr, BitVec.ofNat 8 (2 ^ s.host.regBit.idx.toNat),
          if s.host.regBit.val then BitVec.ofNat 8 (2 ^ s.host.regBit.idx.toNat) else 0x00] :: s.sent ∧
      t.env = { s.env with draws := t.env.draws, trace := t.env.trace } ∧
      (∃ b, t.ctl.cr.read s.host.regAddr.toNat = some b ∧
        b.getLsbD s.host.regBit.idx.toNat = s.host.regBit.val) ∧
      sameRegs (· = s.host.regAddr.toNat) s t

/-- R137, R138: CRESET sends the one byte 0xC0 and completes, with no wait and no confirmation read; the block's own
registers are not reset. The assumed effect is Configuration mode (log 9), and nothing is known of any controller register
(R53; log 26). -/
def Obligations.CresetSendsTheResetByte : Prop :=
  ∀ s : State, s.at Opc.creset (.line 0) →
    ∃ t, execs .creset 2 s = .next t ∧ t.host = { s.host with status := ⟨false, true, true, 0⟩ } ∧
      t.eng = { s.eng with fsm := .idle } ∧ t.cfg = s.cfg ∧ t.sent = [0xC0] :: s.sent ∧
      t.env = { s.env with draws := t.env.draws, trace := t.env.trace } ∧ t.ctl.mode = some .configuration ∧
      ∀ a, t.ctl.cr.read a = none

/-! ### Mode control -/

/-- R151: MNORMAL makes its three writes and the confirmation read in order; RESULT gets the status byte and its verdict in
every case; success exactly when OPMODE is 0. -/
def Obligations.MnormalRequestsAndConfirms : Prop :=
  ∀ (s : State) (b : Byte) (rest : List Byte), s.at Opc.mnormal (.line 0) → s.env.answers = b :: rest →
    ∃ t, execs .mnormal 5 s = .next t ∧
      t.host =
        { s.host with
          result := ⟨b, decide (b.toNat / 32 ≠ 1)⟩
          status := if b.toNat / 32 = 0 then ⟨false, true, true, 0⟩ else ⟨false, true, false, 1⟩ } ∧
      t.eng = { s.eng with fsm := .idle, rxByte := t.eng.rxByte } ∧ t.cfg = s.cfg ∧
      t.sent =
        [0x03, s.cfg.aStat, 0x00] :: [0x05, s.cfg.aInte, BitVec.ofNat 8 (2 ^ s.cfg.wakieBit.toNat), 0x00] ::
          [0x02, s.cfg.aIntf, 0x00] :: [0x02, s.cfg.aCtrl, s.cfg.reqNormal] :: s.sent ∧
      t.env = { s.env with answers := rest, draws := t.env.draws, trace := t.env.trace } ∧
      (s.cfg.aIntf ≠ s.cfg.aInte → s.cfg.aIntf ≠ s.cfg.aStat → t.ctl.cr.read s.cfg.aIntf.toNat = some 0x00) ∧
      sameRegs
        (fun x => x = s.cfg.aCtrl.toNat ∨ x = s.cfg.aIntf.toNat ∨ x = s.cfg.aInte.toNat ∨ x = s.cfg.aStat.toNat) s t

/-- R152: MRXONLY; success exactly when OPMODE is 3; interrupt flags and enables are not touched. -/
def Obligations.MrxonlyRequestsAndConfirms : Prop :=
  ∀ (s : State) (b : Byte) (rest : List Byte), s.at Opc.mrxonly (.line 0) → s.env.answers = b :: rest →
    ∃ t, execs .mrxonly 3 s = .next t ∧
      t.host =
        { s.host with
          result := ⟨b, decide (b.toNat / 32 ≠ 1)⟩
          status := if b.toNat / 32 = 3 then ⟨false, true, true, 0⟩ else ⟨false, true, false, 1⟩ } ∧
      t.eng = { s.eng with fsm := .idle, rxByte := t.eng.rxByte } ∧ t.cfg = s.cfg ∧
      t.sent = [0x03, s.cfg.aStat, 0x00] :: [0x02, s.cfg.aCtrl, s.cfg.reqReceiveOnly] :: s.sent ∧
      t.env = { s.env with answers := rest, draws := t.env.draws, trace := t.env.trace } ∧
      sameRegs (fun x => x = s.cfg.aCtrl.toNat ∨ x = s.cfg.aStat.toNat) s t

/-- R153: MSLEEP; the wake interrupt is enabled first; success exactly when OPMODE is 1. What controller state survives Sleep
is not in the source (R224): that the record of every other controller register is kept is the model's choice (log 29). -/
def Obligations.MsleepRequestsAndConfirms : Prop :=
  ∀ (s : State) (b : Byte) (rest : List Byte), s.at Opc.msleep (.line 0) → s.env.answers = b :: rest →
    ∃ t, execs .msleep 4 s = .next t ∧
      t.host =
        { s.host with
          result := ⟨b, decide (b.toNat / 32 ≠ 1)⟩
          status := if b.toNat / 32 = 1 then ⟨false, true, true, 0⟩ else ⟨false, true, false, 1⟩ } ∧
      t.eng = { s.eng with fsm := .idle, rxByte := t.eng.rxByte } ∧ t.cfg = s.cfg ∧
      t.sent =
        [0x03, s.cfg.aStat, 0x00] :: [0x02, s.cfg.aCtrl, s.cfg.reqSleep] ::
          [0x05, s.cfg.aInte, BitVec.ofNat 8 (2 ^ s.cfg.wakieBit.toNat),
            BitVec.ofNat 8 (2 ^ s.cfg.wakieBit.toNat)] :: s.sent ∧
      t.env = { s.env with answers := rest, draws := t.env.draws, trace := t.env.trace } ∧
      sameRegs (fun x => x = s.cfg.aInte.toNat ∨ x = s.cfg.aCtrl.toNat ∨ x = s.cfg.aStat.toNat) s t

/-- R154: AWAKE makes one status read and always succeeds; awake iff OPMODE differs from 1. -/
def Obligations.AwakeReportsTheVerdict : Prop :=
  ∀ (s : State) (b : Byte) (rest : List Byte), s.at Opc.awake (.line 0) → s.env.answers = b :: rest →
    ∃ t, execs .awake 2 s = .next t ∧
      t.host = { s.host with result := ⟨b, decide (b.toNat / 32 ≠ 1)⟩, status := ⟨false, true, true, 0⟩ } ∧
      t.eng = { s.eng with fsm := .idle, rxByte := t.eng.rxByte } ∧ t.cfg = s.cfg ∧
      t.sent = [0x03, s.cfg.aStat, 0x00] :: s.sent ∧
      t.env = { s.env with answers := rest, draws := t.env.draws, trace := t.env.trace } ∧
      sameRegs (· = s.cfg.aStat.toNat) s t

/-- R158: SETBAUD of each of the four rates makes the three writes of its table entry in order; any other rate fails with
BAUD_UNSUPPORTED, with no transaction. RESULT is unchanged. The table's entries are parameters. The mode is not checked, and
outside Configuration the three registers are left to the oracle (R160); that they are recorded as written in Configuration
(R67) is the model's choice (log 7). -/
def Obligations.SetbaudProgramsSupportedRates : Prop :=
  ∀ s : State, s.at Opc.setbaud (.line 0) →
    (∀ (kbps : Nat) (c : Timing),
      (kbps, c) ∈ [(100, s.cfg.baud.kbps100), (125, s.cfg.baud.kbps125), (250, s.cfg.baud.kbps250),
        (500, s.cfg.baud.kbps500)] →
      s.host.baud.toNat = kbps →
      ∃ t, execs .setbaud 4 s = .next t ∧ t.host = { s.host with status := ⟨false, true, true, 0⟩ } ∧
        t.eng = { s.eng with fsm := .idle } ∧ t.cfg = s.cfg ∧
        t.sent =
          [0x02, s.cfg.aCnf3, c.cnf3] :: [0x02, s.cfg.aCnf2, c.cnf2] :: [0x02, s.cfg.aCnf1, c.cnf1] :: s.sent ∧
        t.env = { s.env with draws := t.env.draws, trace := t.env.trace } ∧
        (s.ctl.mode ≠ some .configuration →
          ∀ a ∈ [s.cfg.aCnf1, s.cfg.aCnf2, s.cfg.aCnf3], t.ctl.cr.read a.toNat = none) ∧
        (s.ctl.mode = some .configuration →
          (s.cfg.aCnf1 ≠ s.cfg.aCtrl → s.cfg.aCnf2 ≠ s.cfg.aCtrl →
            t.ctl.cr.read s.cfg.aCnf3.toNat = some c.cnf3) ∧
          (s.cfg.aCnf1 ≠ s.cfg.aCtrl → s.cfg.aCnf2 ≠ s.cfg.aCnf3 →
            t.ctl.cr.read s.cfg.aCnf2.toNat = some c.cnf2) ∧
          (s.cfg.aCnf1 ≠ s.cfg.aCnf2 → s.cfg.aCnf1 ≠ s.cfg.aCnf3 →
            t.ctl.cr.read s.cfg.aCnf1.toNat = some c.cnf1)) ∧
        sameRegs (fun x => x = s.cfg.aCnf1.toNat ∨ x = s.cfg.aCnf2.toNat ∨ x = s.cfg.aCnf3.toNat) s t) ∧
    (s.host.baud.toNat ∉ [100, 125, 250, 500] →
      exec .setbaud s =
        .next
          { s with
            host := { s.host with status := ⟨false, true, false, 2⟩ }
            eng := { s.eng with fsm := .idle } })

/-! ### The wait loop -/

/-- R172, under the TIMED policy: a poll that finds the flag leaves the wait, one that does not goes to the clock step; the
clock step expires the wait exactly when the wrapped difference is at least TIMEOUT, and goes back to the poll otherwise.
A poll is one read of the interrupt-flag register and writes nothing; a clock step makes no transaction. The latches but
the phase are kept. Under ONCE (SNIFF), a poll that finds no flag ends the wait. -/
def Obligations.WaitLoopStep : Prop :=
  (∀ w ∈ timedWaiters, ∀ s : State,
    (s.at w.opc .sp →
      ∃ t, exec w.instr s = .next t ∧ t.host = s.host ∧ t.cfg = s.cfg ∧
        t.eng =
          { s.eng with
            fsm := .run w.opc (if (readByte s).getLsbD (w.bit s.cfg).toNat then w.onSet else .st) } ∧
        t.sent = [0x03, s.cfg.aIntf, 0x00] :: s.sent ∧
        t.env = { s.env with answers := s.env.answers.drop 1, draws := t.env.draws, trace := t.env.trace } ∧
        sameRegs (· = s.cfg.aIntf.toNat) s t) ∧
    (s.at w.opc .st → s.Inv →
      ∃ t, exec w.instr s = .next t ∧ t.host = s.host ∧ t.cfg = s.cfg ∧ t.ctl = s.ctl ∧
        t.eng =
          { s.eng with fsm := .run w.opc (if s.host.timeout.toNat ≤ elapsedMs s then w.onExpired else .sp) } ∧
        t.env =
          { s.env with
            clockGaps := s.env.clockGaps.drop 1, now := s.env.nextTime, draws := t.env.draws })) ∧
  (∀ s : State, s.at Opc.sniff .sp →
      ∃ t, exec .sniff s = .next t ∧ t.host = s.host ∧ t.cfg = s.cfg ∧
        t.eng =
          { s.eng with
            fsm :=
              .run Opc.sniff (if (readByte s).getLsbD s.cfg.rxfBit.toNat then .sh 0 else .ret .expired) } ∧
        t.sent = [0x03, s.cfg.aIntf, 0x00] :: s.sent ∧
        t.env = { s.env with answers := s.env.answers.drop 1, draws := t.env.draws, trace := t.env.trace } ∧
        sameRegs (· = s.cfg.aIntf.toNat) s t)

/-- R173, whole: the start sample is one step, right before the first poll, and E.start is real time modulo 2^W; for XMIT
it comes right after the transaction that sets TXREQ; and no other step of a command writes E.start. -/
def Obligations.StartTimeSampledBeforeFirstPoll : Prop :=
  (∀ w ∈ timedWaiters, ∀ s : State, s.Inv → s.at w.opc (if w.instr = .xmit then .ts else .s0) →
    ∃ t, exec w.instr s = .next t ∧ t.host = s.host ∧ t.cfg = s.cfg ∧ t.ctl = s.ctl ∧
      t.eng = { s.eng with fsm := .run w.opc .sp, start := t.eng.start } ∧
      t.eng.start.toNat = s.env.nextTime % 2 ^ s.cfg.clockWidth ∧
      t.env =
        { s.env with clockGaps := s.env.clockGaps.drop 1, now := s.env.nextTime, draws := t.env.draws }) ∧
  (∀ s : State, s.at Opc.xmit .tr →
    ∃ t, exec .xmit s = .next t ∧ t.at Opc.xmit .ts ∧
      t.sent =
        [0x05, s.cfg.aTxctrl, BitVec.ofNat 8 (2 ^ s.cfg.txreqBit.toNat),
          BitVec.ofNat 8 (2 ^ s.cfg.txreqBit.toNat)] :: s.sent) ∧
  (∀ (i : Instr) (s t : State), exec i s = .next t →
    (∀ w ∈ timedWaiters, w.instr = i → ¬ s.at w.opc (if w.instr = .xmit then .ts else .s0)) →
    t.eng.start = s.eng.start)

/-- R174: with TIMEOUT = 0 a TIMED wait whose flag is clear makes exactly one poll and one clock sample and expires; a flag
that is set is taken by the first poll. -/
def Obligations.TimeoutZeroMakesOnePoll : Prop :=
  ∀ w ∈ timedWaiters, ∀ (s : State) (f : Byte) (rest : List Byte),
    s.at w.opc .sp → s.host.timeout = 0 → s.env.answers = f :: rest →
    (f.getLsbD (w.bit s.cfg).toNat = false →
      ∃ t, execs w.instr 2 s = .next t ∧ t.at w.opc w.onExpired ∧ t.host = s.host ∧
        t.sent = [0x03, s.cfg.aIntf, 0x00] :: s.sent ∧
        t.env.clockGaps = s.env.clockGaps.drop 1) ∧
    (f.getLsbD (w.bit s.cfg).toNat = true →
      ∃ t, exec w.instr s = .next t ∧ t.at w.opc w.onSet ∧ t.host = s.host ∧
        t.sent = [0x03, s.cfg.aIntf, 0x00] :: s.sent ∧ t.env.clockGaps = s.env.clockGaps)

/-- R175, R181, R247: while less than 2^W ms of real time have passed since the start sample at real time `t0`, a wait
expires exactly when real time has advanced by at least TIMEOUT: no earlier, and at the first sample that is late enough. -/
def Obligations.ExpiryIsByRealTime : Prop :=
  ∀ w ∈ timedWaiters, ∀ (s : State) (t0 : Nat), s.Inv → s.at w.opc .st →
    s.eng.start.toNat = t0 % 2 ^ s.cfg.clockWidth → t0 ≤ s.env.nextTime →
    s.env.nextTime - t0 < 2 ^ s.cfg.clockWidth →
    ∃ t, exec w.instr s = .next t ∧
      (t.at w.opc w.onExpired ↔ s.host.timeout.toNat ≤ s.env.nextTime - t0) ∧
      (t.at w.opc .sp ↔ s.env.nextTime - t0 < s.host.timeout.toNat)

/-! ### Receiving -/

/-- R176 to R180, R190, R192: a RECV, or a base receive of RECVF on a frame that matches TARGET, reads the five header bytes
and the payload burst once a poll has found RXF set, clears RXF after the last read, and commits the decoded frame. Either
the receive starts here and its first poll finds the flag (`first`), or it has polled any number of times before and the next
poll finds it. The ten and nine steps, SD among them also when the data length is 0, are log 10's reading of R17 and R170. -/
def Obligations.RecvDeliversTheFrame : Prop :=
  ∀ r ∈ [(Instr.recv, Opc.recv), (Instr.recvf, Opc.recvf)],
  ∀ (first : Bool) (s : State) (f h0 h1 h2 h3 h4 : Byte) (rest : List Byte), s.at r.2 (if first then .s0 else .sp) →
    s.env.answers = f :: h0 :: h1 :: h2 :: h3 :: h4 :: rest → f.getLsbD s.cfg.rxfBit.toNat = true →
    h4.toNat % 16 ≤ 8 → h4.toNat % 16 ≤ rest.length →
    (r.1 = .recvf → h0.toNat * 8 + h1.toNat / 32 = s.host.target.toNat) →
    ∃ t, execs r.1 (if first then 10 else 9) s = .next t ∧
      t.host = { s.host with frame := t.host.frame, status := ⟨false, true, true, 0⟩ } ∧
      t.host.frame.identifier.toNat = h0.toNat * 8 + h1.toNat / 32 ∧
      t.host.frame.isExtended = decide (h1.toNat / 8 % 2 = 1) ∧
      t.host.frame.extendedIdentifier.toNat =
        (if h1.toNat / 8 % 2 = 1 then h1.toNat % 4 * 65536 + h2.toNat * 256 + h3.toNat else 0) ∧
      t.host.frame.dataLength.toNat = h4.toNat % 16 ∧
      t.host.frame.isRemoteRequest = decide (h4.toNat / 64 % 2 = 1) ∧
      (∀ i, i < h4.toNat % 16 → some (t.host.frame.data.get i) = rest[i]?) ∧
      t.eng.fsm = .idle ∧ t.eng.consec = s.eng.consec ∧ t.cfg = s.cfg ∧
      t.sent =
        [0x05, s.cfg.aIntf, BitVec.ofNat 8 (2 ^ s.cfg.rxfBit.toNat), 0x00] ::
          (if h4.toNat % 16 = 0 then []
            else [0x03 :: s.cfg.aRxd0 :: List.replicate (h4.toNat % 16) 0x00]) ++
          [[0x03, s.cfg.aRxdlc, 0x00], [0x03, s.cfg.aRxeid0, 0x00], [0x03, s.cfg.aRxeid8, 0x00],
            [0x03, s.cfg.aRxsidl, 0x00], [0x03, s.cfg.aRxsidh, 0x00], [0x03, s.cfg.aIntf, 0x00]] ++ s.sent ∧
      t.env =
        { s.env with
          answers := rest.drop (h4.toNat % 16)
          clockGaps := s.env.clockGaps.drop (if first then 1 else 0)
          now := if first then s.env.nextTime else s.env.now
          draws := t.env.draws, trace := t.env.trace } ∧
      sameRegs
        (fun x => x = s.cfg.aIntf.toNat ∨ (∃ k, x = (rxHeaderAddr s.cfg k).toNat) ∨
          ∃ k, k < h4.toNat % 16 ∧ x = burstAddr s.cfg.aRxd0 k) s t

/-- R177, whole, for every command that receives: a DLC of 9 to 15 reads no payload, clears RXF, reports BAD_DLC, and F is
not written. -/
def Obligations.ReceivedBadDlcIsRejected : Prop :=
  ∀ r ∈ receivers, ∀ (s : State) (b : Byte) (rest : List Byte), s.at r.2 (.sh 4) → s.env.answers = b :: rest →
    8 < b.toNat % 16 →
    ∃ t, execs r.1 3 s = .next t ∧ t.host = { s.host with status := ⟨false, true, false, 5⟩ } ∧
      t.eng.fsm = .idle ∧ t.cfg = s.cfg ∧
      t.sent =
        [0x05, s.cfg.aIntf, BitVec.ofNat 8 (2 ^ s.cfg.rxfBit.toNat), 0x00] :: [0x03, s.cfg.aRxdlc, 0x00] ::
          s.sent ∧
      t.env = { s.env with answers := rest, draws := t.env.draws, trace := t.env.trace } ∧
      sameRegs (fun x => x = s.cfg.aIntf.toNat ∨ x = s.cfg.aRxdlc.toNat) s t

/-- R180: RECV reports RX_TIMEOUT when its wait expired, and writes nothing to F. -/
def Obligations.RecvReportsTimeout : Prop :=
  ∀ s : State, s.at Opc.recv (.ret .expired) →
    exec .recv s =
      .next
        { s with
          host := { s.host with status := ⟨false, true, false, 3⟩ }
          eng := { s.eng with fsm := .idle } }

/-- R182, whole: SNIFF makes one poll and samples no clock. With RXF clear it completes with NO_FRAME after that poll; with
a frame present it delivers it as RECV does, RXF being cleared after the last read; with a bad DLC it reads no payload, clears
RXF and fails with BAD_DLC. -/
def Obligations.SniffPollsOnce : Prop :=
  ∀ (s : State) (f : Byte) (rest : List Byte), s.at Opc.sniff .s0 → s.env.answers = f :: rest →
    (f.getLsbD s.cfg.rxfBit.toNat = false →
      ∃ k t, execs .sniff k s = .next t ∧ t.host = { s.host with status := ⟨false, true, false, 7⟩ } ∧
        t.eng = { s.eng with fsm := .idle } ∧ t.cfg = s.cfg ∧ t.sent = [0x03, s.cfg.aIntf, 0x00] :: s.sent ∧
        t.env = { s.env with answers := rest, draws := t.env.draws, trace := t.env.trace } ∧
        sameRegs (· = s.cfg.aIntf.toNat) s t) ∧
    (∀ (h0 h1 h2 h3 h4 : Byte) (rest' : List Byte), f.getLsbD s.cfg.rxfBit.toNat = true →
      rest = h0 :: h1 :: h2 :: h3 :: h4 :: rest' →
      (h4.toNat % 16 ≤ 8 → h4.toNat % 16 ≤ rest'.length →
        ∃ k t, execs .sniff k s = .next t ∧
          t.host = { s.host with frame := t.host.frame, status := ⟨false, true, true, 0⟩ } ∧
          t.host.frame.identifier.toNat = h0.toNat * 8 + h1.toNat / 32 ∧
          t.host.frame.isExtended = decide (h1.toNat / 8 % 2 = 1) ∧
          t.host.frame.extendedIdentifier.toNat =
            (if h1.toNat / 8 % 2 = 1 then h1.toNat % 4 * 65536 + h2.toNat * 256 + h3.toNat else 0) ∧
          t.host.frame.dataLength.toNat = h4.toNat % 16 ∧
          t.host.frame.isRemoteRequest = decide (h4.toNat / 64 % 2 = 1) ∧
          (∀ i, i < h4.toNat % 16 → some (t.host.frame.data.get i) = rest'[i]?) ∧
          t.eng.fsm = .idle ∧ t.eng.consec = s.eng.consec ∧ t.cfg = s.cfg ∧
          t.env =
            { s.env with
              answers := rest'.drop (h4.toNat % 16), draws := t.env.draws, trace := t.env.trace } ∧
          t.sent =
            [0x05, s.cfg.aIntf, BitVec.ofNat 8 (2 ^ s.cfg.rxfBit.toNat), 0x00] ::
              (if h4.toNat % 16 = 0 then []
                else [0x03 :: s.cfg.aRxd0 :: List.replicate (h4.toNat % 16) 0x00]) ++
              [[0x03, s.cfg.aRxdlc, 0x00], [0x03, s.cfg.aRxeid0, 0x00], [0x03, s.cfg.aRxeid8, 0x00],
                [0x03, s.cfg.aRxsidl, 0x00], [0x03, s.cfg.aRxsidh, 0x00], [0x03, s.cfg.aIntf, 0x00]] ++ s.sent ∧
          sameRegs
            (fun x => x = s.cfg.aIntf.toNat ∨ (∃ k, x = (rxHeaderAddr s.cfg k).toNat) ∨
              ∃ k, k < h4.toNat % 16 ∧ x = burstAddr s.cfg.aRxd0 k) s t) ∧
      (8 < h4.toNat % 16 →
        ∃ k t, execs .sniff k s = .next t ∧ t.host = { s.host with status := ⟨false, true, false, 5⟩ } ∧
          t.eng.fsm = .idle ∧ t.eng.consec = s.eng.consec ∧ t.cfg = s.cfg ∧
          t.env = { s.env with answers := rest', draws := t.env.draws, trace := t.env.trace } ∧
          t.sent =
            [[0x05, s.cfg.aIntf, BitVec.ofNat 8 (2 ^ s.cfg.rxfBit.toNat), 0x00], [0x03, s.cfg.aRxdlc, 0x00],
              [0x03, s.cfg.aRxeid0, 0x00], [0x03, s.cfg.aRxeid8, 0x00], [0x03, s.cfg.aRxsidl, 0x00],
              [0x03, s.cfg.aRxsidh, 0x00], [0x03, s.cfg.aIntf, 0x00]] ++ s.sent ∧
          sameRegs (fun x => x = s.cfg.aIntf.toNat ∨ ∃ k, x = (rxHeaderAddr s.cfg k).toNat) s t))

/-- R190 to R193: what RECVF does after each base receive. The start writes E.consec 0; an expired base receive counts
one more, and the eighth in a row gives up with FILTER_EXHAUSTED; a frame whose 11-bit identifier is TARGET is committed,
whatever its extension; any other frame is consumed with E.consec 0 and F not written; a bad DLC ends it; and no step
inside a base receive touches E.consec. That the start and what follows a base receive's return are one step each, and that
SL is one with S0, to which the command returns, is log 10's choice. -/
def Obligations.RecvfCountsAndFilters : Prop :=
  ∀ s : State,
    (s.at Opc.recvf (.line 0) →
      exec .recvf s = .next { s with eng := { s.eng with fsm := .run Opc.recvf .s0, consec := 0 } }) ∧
    (s.at Opc.recvf (.ret .expired) → s.eng.consec.toNat < 7 →
      ∃ t, exec .recvf s = .next t ∧
        t = { s with eng := { s.eng with fsm := .run Opc.recvf .s0, consec := t.eng.consec } } ∧
        t.eng.consec.toNat = s.eng.consec.toNat + 1) ∧
    (s.at Opc.recvf (.ret .expired) → s.eng.consec.toNat = 7 →
      exec .recvf s =
        .next
          { s with
            host := { s.host with status := ⟨false, true, false, 8⟩ }
            eng := { s.eng with fsm := .idle, consec := 8 } }) ∧
    (s.at Opc.recvf (.ret .frame) → s.eng.work.identifier = s.host.target →
      ∃ t, exec .recvf s = .next t ∧
        t.host = { s.host with frame := t.host.frame, status := ⟨false, true, true, 0⟩ } ∧
        t.host.frame = { s.eng.work with data := t.host.frame.data } ∧
        (∀ i, i < s.eng.work.dataLength.toNat → i < 8 →
          t.host.frame.data.get i = s.eng.work.data.get i) ∧
        t.eng = { s.eng with fsm := .idle } ∧ t.ctl = s.ctl ∧ t.cfg = s.cfg ∧
        t.env = { s.env with draws := t.env.draws }) ∧
    (s.at Opc.recvf (.ret .frame) → s.eng.work.identifier ≠ s.host.target →
      exec .recvf s = .next { s with eng := { s.eng with fsm := .run Opc.recvf .s0, consec := 0 } }) ∧
    (s.at Opc.recvf (.ret .badDlc) →
      exec .recvf s =
        .next
          { s with
            host := { s.host with status := ⟨false, true, false, 5⟩ }
            eng := { s.eng with fsm := .idle } }) ∧
    (∀ ph t, s.at Opc.recvf ph → ph ≠ .line 0 → (∀ r, ph ≠ .ret r) → exec .recvf s = .next t →
      t.eng.consec = s.eng.consec)

/-- R190: with TIMEOUT = 0 and no traffic RECVF makes exactly 8 polls and fails with FILTER_EXHAUSTED. -/
def Obligations.RecvfGivesUpAfterEightTimeouts : Prop :=
  ∀ s : State, s.at Opc.recvf (.line 0) → s.host.timeout = 0 → 8 ≤ s.env.answers.length →
    (∀ f ∈ s.env.answers.take 8, f.getLsbD s.cfg.rxfBit.toNat = false) →
    ∃ t, execs .recvf 33 s = .next t ∧ t.host = { s.host with status := ⟨false, true, false, 8⟩ } ∧
      t.eng.fsm = .idle ∧ t.eng.consec = 8 ∧ t.cfg = s.cfg ∧
      t.sent = List.replicate 8 [0x03, s.cfg.aIntf, 0x00] ++ s.sent ∧
      t.env.clockGaps = s.env.clockGaps.drop 16 ∧ sameRegs (· = s.cfg.aIntf.toNat) s t

/-- R203, R248: under steady non-matching traffic RECVF does not end. Each non-matching frame is consumed in ten steps
(log 10's reading of R17), and however many arrive, each with a header and a payload of its own, the command is back at its
start with E.consec 0 and no host register changed. -/
def Obligations.RecvfRunsOnUnderTraffic : Prop :=
  ∀ (frames : List Arrival) (s : State) (rest : List Byte), s.at Opc.recvf .s0 → frames ≠ [] →
    (∀ a ∈ frames, a.passesBy s.cfg s.host.target) →
    s.env.answers = (frames.map Arrival.answers).flatten ++ rest →
    ∃ t, execs .recvf (10 * frames.length) s = .next t ∧ t.at Opc.recvf .s0 ∧ t.host = s.host ∧
      t.eng.consec = 0 ∧ t.cfg = s.cfg ∧ t.env.answers = rest

/-- R203: RECV ends when the clock advances. With every gap between samples at least 1 ms and small enough not to wrap, and
as many gaps given as TIMEOUT has milliseconds and one more, RECV is idle within 2 · TIMEOUT + 13 steps, whatever the
controller answers. -/
def Obligations.RecvEndsWhenTheClockAdvances : Prop :=
  ∀ (s : State) (g0 : Nat) (gaps : List Nat), s.Inv → s.at Opc.recv .s0 → s.env.clockGaps = g0 :: gaps →
    (∀ g ∈ gaps, 1 ≤ g ∧ g + s.host.timeout.toNat ≤ 2 ^ s.cfg.clockWidth) →
    s.host.timeout.toNat + 1 ≤ gaps.length →
    ∃ k t, k ≤ 2 * s.host.timeout.toNat + 13 ∧ execs .recv k s = .next t ∧ t.eng.fsm = .idle

/-! ### Transmitting -/

/-- R194, R196, R198, R200: an XMIT whose first poll finds TXF set loads the five header bytes and the payload in order, sets the
transmit request after every buffer byte, polls, clears TXF and succeeds; F is never written. The clock is sampled once, after
the transmit request. The twelve steps, TD among them also when the data length is 0, are log 10's reading of R17 and R170.
And after any number of polls that found TXF clear, a poll that finds it set is followed by the clear of TXF and by success;
TXREQ is not written and the clock is not sampled. -/
def Obligations.XmitSendsTheFrame : Prop :=
  (∀ (s : State) (f : Byte) (rest : List Byte), s.at Opc.xmit .s0 → s.host.frame.dataLength.toNat ≤ 8 →
    s.env.answers = f :: rest → f.getLsbD s.cfg.txfBit.toNat = true →
    ∃ t, execs .xmit 12 s = .next t ∧ t.host = { s.host with status := ⟨false, true, true, 0⟩ } ∧
      t.eng = { s.eng with fsm := .idle, start := t.eng.start } ∧ t.cfg = s.cfg ∧
      t.sent =
        [0x05, s.cfg.aIntf, BitVec.ofNat 8 (2 ^ s.cfg.txfBit.toNat), 0x00] :: [0x03, s.cfg.aIntf, 0x00] ::
          [0x05, s.cfg.aTxctrl, BitVec.ofNat 8 (2 ^ s.cfg.txreqBit.toNat),
            BitVec.ofNat 8 (2 ^ s.cfg.txreqBit.toNat)] ::
          (if s.host.frame.dataLength.toNat = 0 then []
            else
              [0x02 :: s.cfg.aTxd0 ::
                (List.range s.host.frame.dataLength.toNat).map s.host.frame.data.get]) ++
          [[0x02, s.cfg.aTxdlc, encodeControl s.host.frame.dataLength s.host.frame.isRemoteRequest],
            [0x02, s.cfg.aTxeid0, s.host.frame.packedId.eid0],
            [0x02, s.cfg.aTxeid8, s.host.frame.packedId.eid8],
            [0x02, s.cfg.aTxsidl, s.host.frame.packedId.sidl],
            [0x02, s.cfg.aTxsidh, s.host.frame.packedId.sidh]] ++ s.sent ∧
      t.env =
        { s.env with
          answers := rest, clockGaps := s.env.clockGaps.drop 1, now := t.env.now
          draws := t.env.draws, trace := t.env.trace } ∧
      s.env.now ≤ t.env.now ∧ (∀ g gaps, s.env.clockGaps = g :: gaps → t.env.now = s.env.now + g) ∧
      sameRegs
        (fun x => x = s.cfg.aIntf.toNat ∨ x = s.cfg.aTxctrl.toNat ∨ (∃ k, x = (txHeaderAddr s.cfg k).toNat) ∨
          ∃ k, k < s.host.frame.dataLength.toNat ∧ x = burstAddr s.cfg.aTxd0 k) s t) ∧
  (∀ (s : State) (f : Byte) (rest : List Byte), s.at Opc.xmit .sp → s.env.answers = f :: rest →
    f.getLsbD s.cfg.txfBit.toNat = true →
    ∃ t, execs .xmit 3 s = .next t ∧ t.host = { s.host with status := ⟨false, true, true, 0⟩ } ∧
      t.eng = { s.eng with fsm := .idle } ∧ t.cfg = s.cfg ∧
      t.sent =
        [0x05, s.cfg.aIntf, BitVec.ofNat 8 (2 ^ s.cfg.txfBit.toNat), 0x00] :: [0x03, s.cfg.aIntf, 0x00] :: s.sent ∧
      t.env = { s.env with answers := rest, draws := t.env.draws, trace := t.env.trace } ∧
      (∃ b, t.ctl.cr.read s.cfg.aIntf.toNat = some b ∧ b.getLsbD s.cfg.txfBit.toNat = false) ∧
      sameRegs (· = s.cfg.aIntf.toNat) s t)

/-- R199, R200: when the wait expires, XMIT clears TXREQ, then TXF, and reports TX_TIMEOUT. -/
def Obligations.XmitAbortsOnTimeout : Prop :=
  ∀ s : State, s.Inv → s.at Opc.xmit .st → s.host.timeout.toNat ≤ elapsedMs s →
    ∃ t, execs .xmit 4 s = .next t ∧ t.host = { s.host with status := ⟨false, true, false, 4⟩ } ∧
      t.eng = { s.eng with fsm := .idle } ∧ t.cfg = s.cfg ∧
      t.sent =
        [0x05, s.cfg.aIntf, BitVec.ofNat 8 (2 ^ s.cfg.txfBit.toNat), 0x00] ::
          [0x05, s.cfg.aTxctrl, BitVec.ofNat 8 (2 ^ s.cfg.txreqBit.toNat), 0x00] :: s.sent ∧
      t.env =
        { s.env with
          clockGaps := s.env.clockGaps.drop 1, now := s.env.nextTime
          draws := t.env.draws, trace := t.env.trace } ∧
      (∃ b, t.ctl.cr.read s.cfg.aIntf.toNat = some b ∧ b.getLsbD s.cfg.txfBit.toNat = false) ∧
      (s.cfg.aTxctrl ≠ s.cfg.aIntf →
        ∃ b, t.ctl.cr.read s.cfg.aTxctrl.toNat = some b ∧ b.getLsbD s.cfg.txreqBit.toNat = false) ∧
      sameRegs (fun x => x = s.cfg.aIntf.toNat ∨ x = s.cfg.aTxctrl.toNat) s t

/-- R195, whole: an XMIT with F.dataLength in 9..15 fails with BAD_FRAME before its first transaction. -/
def Obligations.XmitRejectsBadLength : Prop :=
  ∀ s : State, s.at Opc.xmit .s0 → 8 < s.host.frame.dataLength.toNat →
    exec .xmit s =
      .next
        { s with
          host := { s.host with status := ⟨false, true, false, 6⟩ }
          eng := { s.eng with fsm := .idle } }

/-! ### Transactions -/

/-- R66: a read of n registers is one transaction; byte k of what it returns is the value of register (a + k) mod 256, and
it is what the outside world answers. Where a burst of more than 256 bytes meets a register again, its last byte counts. A read
of the status register records the mode that it reports, which is the model's choice (log 9). -/
def Obligations.ReadTransaction : Prop :=
  ∀ (s : State) (a : Byte) (n : Nat), 1 ≤ n →
    ∃ t x, exec (.ctlRead a n) s = .next t ∧ t.host = s.host ∧ t.eng = s.eng ∧ t.cfg = s.cfg ∧
      t.env =
        { s.env with answers := s.env.answers.drop n, draws := t.env.draws, trace := x :: s.env.trace } ∧
      x.sent = 0x03 :: a :: List.replicate n 0x00 ∧ x.received.length = n + 2 ∧
      (n ≤ s.env.answers.length → x.received.drop 2 = s.env.answers.take n) ∧
      (∀ k, k < n → n ≤ k + 256 → t.ctl.cr.read (burstAddr a k) = x.received[k + 2]?) ∧
      (∀ k b, k < n → n ≤ k + 256 → burstAddr a k = s.cfg.aStat.toNat → x.received[k + 2]? = some b →
        t.ctl.mode = reportedMode b) ∧
      ((∀ k, k < n → burstAddr a k ≠ s.cfg.aStat.toNat) → t.ctl.mode = s.ctl.mode) ∧
      sameRegs (fun y => ∃ k, k < n ∧ y = burstAddr a k) s t

/-- R67: a write of n bytes is one transaction with the assumed effect CR[(a + k) mod 256] <- v[k]; the last byte counts
where a burst of more than 256 bytes meets a register again. A write of the control register leaves no mode known, which is
the model's choice (log 9). -/
def Obligations.WriteTransaction : Prop :=
  ∀ (s : State) (a : Byte) (v : List Byte), 1 ≤ v.length →
    ∃ t x, exec (.ctlWrite a v) s = .next t ∧ t.host = s.host ∧ t.eng = s.eng ∧ t.cfg = s.cfg ∧
      t.env = { s.env with draws := t.env.draws, trace := x :: s.env.trace } ∧
      x.sent = 0x02 :: a :: v ∧ x.received.length = x.sent.length ∧
      (∀ k, k < v.length → v.length ≤ k + 256 → t.ctl.cr.read (burstAddr a k) = v[k]?) ∧
      ((∃ k, k < v.length ∧ burstAddr a k = s.cfg.aCtrl.toNat) → t.ctl.mode = none) ∧
      ((∀ k, k < v.length → burstAddr a k ≠ s.cfg.aCtrl.toNat) → t.ctl.mode = s.ctl.mode) ∧
      sameRegs (fun y => ∃ k, k < v.length ∧ y = burstAddr a k) s t

/-- R68: a bit-modify is one transaction; bits inside the mask get the value's bits, and bits outside it keep the value that
the controller gives them, a free value (log 8). A bit-modify of the control register leaves no mode known (log 9). -/
def Obligations.BitModifyTransaction : Prop :=
  ∀ (s : State) (a m v : Byte),
    ∃ t x b, exec (.ctlBitmod a m v) s = .next t ∧ t.host = s.host ∧ t.eng = s.eng ∧ t.cfg = s.cfg ∧
      t.env = { s.env with draws := t.env.draws, trace := x :: s.env.trace } ∧
      x.sent = [0x05, a, m, v] ∧ x.received.length = 4 ∧ t.ctl.cr.read a.toNat = some b ∧
      b &&& m = v &&& m ∧ b &&& ~~~m = Config.heldByte s.env.draws &&& ~~~m ∧
      t.ctl.mode = (if a = s.cfg.aCtrl then none else s.ctl.mode) ∧ sameRegs (· = a.toNat) s t

/-- R69, R53: a reset is one transaction of one byte; the controller is assumed in Configuration, and nothing is known of
any register (logs 9 and 26). The controller's own power-on leaves the same of it, with no transaction. -/
def Obligations.ResetTransaction : Prop :=
  (∀ s : State, ∃ t x, exec .ctlReset s = .next t ∧ t.host = s.host ∧ t.eng = s.eng ∧ t.cfg = s.cfg ∧
    t.env = { s.env with draws := t.env.draws, trace := x :: s.env.trace } ∧ x.sent = [0xC0] ∧
    x.received.length = 1 ∧ t.ctl.mode = some .configuration ∧ ∀ a, t.ctl.cr.read a = none) ∧
  (∀ (s : State) (rest : List Input), s.env.port = none → s.env.inputs = .controllerPowerOn :: rest →
    ∃ t, step s = .next t ∧ t.host = s.host ∧ t.eng = s.eng ∧ t.cfg = s.cfg ∧
      t.env = { s.env with inputs := rest } ∧ t.ctl.mode = some .configuration ∧ ∀ a, t.ctl.cr.read a = none)

/-- The four transport commands that the source lists without layout or effect (R82, N18) stop by name. That they stop is
the model's choice (log 16). -/
def Obligations.UnlaidTransportCommandsStop : Prop :=
  ∀ s : State, ∀ i ∈ [Instr.ctlReadRxBuffer, .ctlLoadTxBuffer, .ctlRequestToSend, .ctlReadStatus],
    exec i s = .refused .transportLayoutNotInSource

/-! ### The host interface -/

/-- R212, whole: a CMD write of an idle block is accepted in one step; a CMD write while BUSY = 1 changes nothing. -/
def Obligations.CommandAcceptance : Prop :=
  ∀ (s : State) (w : Word) (rest : List Input), s.env.port = none → s.env.inputs = .write 0x00 32 w :: rest →
    (s.host.status.busy = false →
      step s =
        .next
          { s with
            host := { s.host with cmd := BitVec.ofNat 8 w.toNat, status := ⟨true, false, false, 0⟩ }
            eng :=
              { s.eng with
                fsm :=
                  .run (BitVec.ofNat 8 w.toNat)
                    (if w.toNat % 256 = 0x30 ∨ w.toNat % 256 = 0x31 ∨ w.toNat % 256 = 0x33 then .s0
                      else .line 0) }
            env := { s.env with inputs := rest } }) ∧
    (s.host.status.busy = true → step s = .next { s with env := { s.env with inputs := rest } })

/-- R61: a legal access is answered, a read changes nothing but what the host read, reserved offsets read 0 and
ignore writes, STATUS and RESULT ignore writes, and any other access is refused. The refusal of offsets outside the window is
the model's choice (R60; log 17). -/
def Obligations.HostAccessRules : Prop :=
  ∀ (s : State) (offset width : Nat) (v : Word) (rest : List Input), s.env.port = none →
    (s.env.inputs = .read offset width :: rest →
      (width = 32 ∧ offset % 4 = 0 ∧ offset < 256 →
        ∃ d, step s = .next { s with env := { s.env with inputs := rest, rdata := d } } ∧
          (∀ r : HostReg, r.offset = offset → d = s.host.read r) ∧ (0x40 ≤ offset → d = 0)) ∧
      (¬ (width = 32 ∧ offset % 4 = 0 ∧ offset < 256) → step s = .refused .hostAccessOutsideInterface)) ∧
    (s.env.inputs = .write offset width v :: rest →
      (width = 32 ∧ offset % 4 = 0 ∧ offset < 256 → (0x40 ≤ offset ∨ offset = 0x04 ∨ offset = 0x20) →
        step s = .next { s with env := { s.env with inputs := rest } }) ∧
      (¬ (width = 32 ∧ offset % 4 = 0 ∧ offset < 256) → step s = .refused .hostAccessOutsideInterface))

/-- R62: while BUSY = 1 every legal host write is ignored, whatever its offset. -/
def Obligations.HostWritesIgnoredWhileBusy : Prop :=
  ∀ (s : State) (offset : Nat) (v : Word) (rest : List Input), s.env.port = none →
    s.env.inputs = .write offset 32 v :: rest → offset % 4 = 0 → offset < 256 → s.host.status.busy = true →
    step s = .next { s with env := { s.env with inputs := rest } }

/-- R22: what a host writes to an operand register reads back in the bits the register implements and 0 elsewhere, and no
other register changes. -/
def Obligations.HostWriteReadsBack : Prop :=
  ∀ (s : State) (r : HostReg) (mask v : Word) (rest : List Input), s.cfg.wf = true → s.env.port = none →
    s.host.status.busy = false →
    (r, mask) ∈
      [(HostReg.timeout, BitVec.ofNat 32 (2 ^ s.cfg.clockWidth - 1)), (.target, 0x7FF), (.baud, 0xFFFF),
        (.regaddr, 0xFF), (.regdata, 0xFF), (.regbit, 0x107), (.frameId, 0x7FF), (.frameEid, 0x3FFFF),
        (.frameCtl, 0x3F), (.frameData0, 0xFFFFFFFF), (.frameData1, 0xFFFFFFFF), (.pack, 0xFFFFFFFF),
        (.packdlc, 0xFF)] →
    s.env.inputs = .write r.offset 32 v :: rest →
    ∃ t, step s = .next t ∧ t.host.read r = v &&& mask ∧ (∀ q, q ≠ r → t.host.read q = s.host.read q) ∧
      t.eng = s.eng ∧ t.ctl = s.ctl ∧ t.cfg = s.cfg ∧ t.env = { s.env with inputs := rest }

/-- R230, R231: the block reset puts every host register at 0x00000000, fsm at IDLE and E.consec at 0, issues no
transaction, and leaves an idle block's view of the controller; a running command is abandoned. What is kept of the
controller otherwise is the model's choice (log 18). -/
def Obligations.BlockResetEffect : Prop :=
  ∀ (s : State) (rest : List Input), s.env.port = none → s.env.inputs = .blockReset :: rest →
    ∃ t, step s = .next t ∧ (∀ r, t.host.read r = 0) ∧ t.eng.fsm = .idle ∧ t.eng.consec = 0 ∧ t.cfg = s.cfg ∧
      t.env = { s.env with inputs := rest, draws := t.env.draws } ∧ (s.eng.fsm = .idle → t.ctl = s.ctl)

/-- R213, R24: STATUS as the host reads it after acceptance, success, and each failure. -/
def Obligations.StatusWordAtCompletion : Prop :=
  Status.accepted.toWord = 0x00000001 ∧ Status.succeeded.toWord = 0x00000006 ∧
    ∀ e : CmdError, (Status.failed e).toWord = BitVec.ofNat 32 (e.code.toNat * 16 + 2)

/-- R93: `wait` reads STATUS until BUSY = 0; that the engine moves between two reads is the model's choice (log 12). -/
def Obligations.WaitPollsStatus : Prop :=
  ∀ (s : State) (rest : List Input), s.env.port = none → s.env.inputs = .wait :: rest →
    step s =
      .next
        { s with
          env :=
            { s.env with
              rdata := s.host.status.toWord
              inputs := if s.host.status.busy then .engine :: .wait :: rest else rest } }

/-! ### The step -/

/-- A step runs the decoded instruction: the running command when the engine moves, an accepted CMD write, and a
transaction on the port. The port is the model's own (log 14). -/
def Obligations.StepRunsTheDecodedInstruction : Prop :=
  ∀ (s : State) (i : Instr),
    (∀ opc ph, s.env.port = none → s.env.inputs = [] → s.at opc ph → decodeOpc opc = some i →
      step s = exec i s) ∧
    (∀ opc ph rest, s.env.port = none → s.env.inputs = .engine :: rest → s.at opc ph → decodeOpc opc = some i →
      step s = exec i { s with env := { s.env with inputs := rest } }) ∧
    (∀ w rest, s.env.port = none → s.env.inputs = .write 0x00 32 w :: rest → s.eng.fsm = .idle →
      s.host.status.busy = false → decodeCmd w = .ok i →
      step s = exec i { s with env := { s.env with inputs := rest } }) ∧
    (∀ bytes, s.env.port = some bytes → decodeXact bytes = .ok i →
      step s = exec i { s with env := { s.env with port := none } })

/-- R17, R35: in each of its phases, with nothing assumed of the rest of the state, a running command makes its step: exec
answers a next state. -/
def Obligations.EveryPhaseOfACommandAnswers : Prop :=
  ∀ (i : Instr) (opc : Byte) (ph : Phase) (s : State), decodeOpc opc = some i → hasPhase i ph = true →
    s.at opc ph → ∃ t, exec i s = .next t

/-- R62, R213, R241: a step that leaves a command running writes no host register, STATUS among them; so the host never
sees a half-written result. -/
def Obligations.RunningStepsWriteNoHostRegister : Prop :=
  ∀ (i : Instr) (s t : State), exec i s = .next t → s.eng.fsm.running = true → t.eng.fsm.running = true →
    t.host = s.host

/-- R213: the completion step. STATUS is success with NONE or failure with a code, fsm is IDLE, and on failure F, PACK and
PACKDLC are as they were, and RESULT too but for the mode commands. -/
def Obligations.CompletionOutcome : Prop :=
  ∀ (i : Instr) (s t : State), exec i s = .next t → s.eng.fsm.running = true → t.eng.fsm.running = false →
    t.eng.fsm = .idle ∧
    (t.host.status = ⟨false, true, true, 0⟩ ∨
      (∃ e : CmdError, t.host.status = ⟨false, true, false, e.code⟩ ∧ e.code ≠ 0 ∧
        t.host.frame = s.host.frame ∧ t.host.pack = s.host.pack ∧ t.host.packDlc = s.host.packDlc ∧
        (i ∉ [Instr.mnormal, .mrxonly, .msleep] → t.host.result = s.host.result)))

/-- R81 (results written), R21, R52: while a command runs, only the results of its own row of the opcode map change; the
operand registers and CMD never do. -/
def Obligations.EachCommandWritesOnlyItsResults : Prop :=
  ∀ (i : Instr) (s t : State), exec i s = .next t → s.eng.fsm.running = true →
    t.host.cmd = s.host.cmd ∧ t.host.timeout = s.host.timeout ∧ t.host.target = s.host.target ∧
    t.host.baud = s.host.baud ∧ t.host.regAddr = s.host.regAddr ∧ t.host.regData = s.host.regData ∧
    t.host.regBit = s.host.regBit ∧
    (i ∉ [Instr.decid, .decctl, .recv, .sniff, .recvf] → t.host.frame = s.host.frame) ∧
    (i ≠ .encid → t.host.pack = s.host.pack) ∧ (i ≠ .encctl → t.host.packDlc = s.host.packDlc) ∧
    (i ∉ [Instr.rdreg, .mnormal, .mrxonly, .msleep, .awake] → t.host.result = s.host.result)

/-- R28: no command ever writes a value above 8 to DLC. -/
def Obligations.CommandsKeepDataLengthBound : Prop :=
  ∀ (i : Instr) (s t : State), s.Inv → exec i s = .next t → s.eng.fsm.running = true →
    t.host.frame.dataLength = s.host.frame.dataLength ∨ t.host.frame.dataLength.toNat ≤ 8

/-- R65, R17: a step makes one transaction at most, and never takes one back. -/
def Obligations.OneTransactionPerStep : Prop :=
  ∀ s t : State, step s = .next t → t.env.trace = s.env.trace ∨ ∃ x, t.env.trace = x :: s.env.trace

/-- R157, R53: the only way into Configuration is the controller reset, or the controller's own power-on. And what every
step does to the record of the mode (R43, R51): a step that writes the control register, such as a mode request, leaves no
mode known; one that reads the status register, such as a confirmation read, records the mode reported; and one without a
transaction keeps the record, but for the block reset and the power-on. That `ctl.mode` holds the mode last established is
the model's choice (log 9). -/
def Obligations.OnlyResetEntersConfiguration : Prop :=
  ∀ s t : State, step s = .next t →
    (t.ctl.mode = some .configuration →
      s.ctl.mode = some .configuration ∨ (∃ x, t.env.trace = x :: s.env.trace ∧ x.sent = [0xC0]) ∨
        (s.env.port = none ∧ ∃ rest, s.env.inputs = .controllerPowerOn :: rest)) ∧
    (∀ x b, t.env.trace = x :: s.env.trace → x.sent = [0x02, s.cfg.aCtrl, b] → t.ctl.mode = none) ∧
    (∀ x d0 d1 b, t.env.trace = x :: s.env.trace → x.sent = [0x03, s.cfg.aStat, 0x00] → x.received = [d0, d1, b] →
      t.ctl.mode = reportedMode b) ∧
    (t.env.trace = s.env.trace →
      (∀ rest, s.env.inputs ≠ .blockReset :: rest ∧ s.env.inputs ≠ .controllerPowerOn :: rest) →
      t.ctl.mode = s.ctl.mode)

/-- R33: real time never goes backward; and R8: the parameters never change. -/
def Obligations.ClockAdvancesAndParametersStay : Prop :=
  ∀ s t : State, step s = .next t → s.env.now ≤ t.env.now ∧ t.cfg = s.cfg

/-- The invariant holds after reset. -/
def Obligations.ResetMeetsTheInvariant : Prop := State.reset.Inv

/-- The invariant is kept by every step: STATUS legal (R24), BUSY exactly while a command runs in a phase of its own (R35),
the latches in their bounds (R36, R37), the controller registers in canonical form (R60), and every transaction made one of
the four that the block emits (R83). -/
def Obligations.EveryStepKeepsTheInvariant : Prop :=
  ∀ s t : State, s.Inv → step s = .next t → t.Inv

/-- From a state that meets the invariant, no step faults; with an empty port, a step is refused only for a host access
outside the interface (R61). -/
def Obligations.GoodStatesNeverFault : Prop :=
  ∀ s : State, s.Inv →
    (∀ r, step s ≠ .fault r) ∧
    (∀ r, s.env.port = none → step s = .refused r →
      r = .hostAccessOutsideInterface ∧
        ∃ offset width rest, ¬ (width = 32 ∧ offset % 4 = 0 ∧ offset < 256) ∧
          (s.env.inputs = .read offset width :: rest ∨ ∃ v, s.env.inputs = .write offset width v :: rest))
end

