-- ==== Sys2Proof/Laws/Memory.lean ====
section
/-!
SUPPORT. The laws of the controller register space: a read after a write, and the canonical form kept by a write and by
forgetting.
-/
namespace Sys2Proof.Machine

@[simp] theorem Memory.read_write_same (m : Memory) (x : Nat) (v : Byte) : (m.write x v).read x = some v := by
  induction m with
  | nil => simp [Memory.write, Memory.read]
  | cons c rest ih =>
    obtain ⟨a, b⟩ := c
    simp only [Memory.write]
    split
    · simp [Memory.read]
    · split
      · simp [Memory.read]
      · simp_all [Memory.read]

theorem Memory.read_write_other (m : Memory) {x y : Nat} (v : Byte) (h : y ≠ x) :
    (m.write x v).read y = m.read y := by
  induction m with
  | nil => simp [Memory.write, Memory.read, h]
  | cons c rest ih =>
    obtain ⟨a, b⟩ := c
    simp only [Memory.write]
    split
    · simp [Memory.read, h]
    · split
      · rename_i h1 h2; subst h2; simp [Memory.read, h]
      · simp [Memory.read, ih]

theorem Memory.write_rising (m : Memory) (lo : Option Nat) {x : Nat} (v : Byte) (hx : x < 256)
    (hlo : lo.all (· < x) = true) (h : Memory.rising lo m = true) : Memory.rising lo (m.write x v) = true := by
  induction m generalizing lo with
  | nil => simp [Memory.write, Memory.rising, hx, hlo]
  | cons c rest ih =>
    obtain ⟨a, b⟩ := c
    simp only [Memory.rising, Bool.and_eq_true, decide_eq_true_eq] at h
    obtain ⟨⟨hla, ha⟩, hr⟩ := h
    simp only [Memory.write]
    split
    · simp_all [Memory.rising]
    · split
      · rename_i h1 h2; subst h2; simp_all [Memory.rising]
      · simp only [Memory.rising, Bool.and_eq_true, decide_eq_true_eq]
        refine ⟨⟨hla, ha⟩, ih (some a) ?_ hr⟩
        simp only [Option.all_some, decide_eq_true_eq]
        omega

/-- A write at an address of the space keeps the canonical form. -/
theorem Memory.write_wf (m : Memory) {x : Nat} (v : Byte) (hx : x < 256) (h : m.wf = true) :
    (m.write x v).wf = true :=
  m.write_rising none v hx rfl h

@[simp] theorem Memory.read_forget_same (m : Memory) (x : Nat) : (m.forget x).read x = none := by
  induction m with
  | nil => rfl
  | cons c rest ih =>
    by_cases h : c.1 = x
    · simpa [Memory.forget, h] using ih
    · have hx : x ≠ c.1 := fun e => h e.symm
      simpa [Memory.forget, Memory.read, h, hx] using ih

theorem Memory.read_forget_other (m : Memory) {x y : Nat} (h : y ≠ x) : (m.forget x).read y = m.read y := by
  induction m with
  | nil => rfl
  | cons c rest ih =>
    by_cases hc : c.1 = x
    · have hy : y ≠ c.1 := by rw [hc]; exact h
      simpa [Memory.forget, Memory.read, hc, h] using ih
    · by_cases hy : y = c.1
      · simp [Memory.forget, Memory.read, hc, hy]
      · simpa [Memory.forget, Memory.read, hc, hy] using ih

/-- A list that rises above a bound rises above every lower one. -/
theorem Memory.rising_mono {m : Memory} {lo hi : Option Nat} (hb : ∀ a, hi.all (· < a) = true → lo.all (· < a) = true)
    (h : Memory.rising hi m = true) : Memory.rising lo m = true := by
  cases m with
  | nil => rfl
  | cons c rest =>
    simp only [Memory.rising, Bool.and_eq_true] at h ⊢
    exact ⟨⟨hb _ h.1.1, h.1.2⟩, h.2⟩

theorem Memory.forget_rising (m : Memory) (lo : Option Nat) (x : Nat) (h : Memory.rising lo m = true) :
    Memory.rising lo (m.forget x) = true := by
  induction m generalizing lo with
  | nil => rfl
  | cons c rest ih =>
    simp only [Memory.rising, Bool.and_eq_true] at h
    by_cases hc : c.1 = x
    · have hlo : ∀ a, (some c.1).all (· < a) = true → lo.all (· < a) = true := by
        intro a ha
        cases lo with
        | none => rfl
        | some l =>
          have hl := h.1.1
          simp only [Option.all_some, decide_eq_true_eq] at *
          omega
      have := Memory.rising_mono hlo (ih _ h.2)
      simpa [Memory.forget, hc] using this
    · have := ih _ h.2
      simp only [Memory.forget] at this
      simp [Memory.forget, hc, Memory.rising, h.1.1, this]
      simpa using h.1.2

/-- Forgetting an address keeps the canonical form. -/
theorem Memory.forget_wf (m : Memory) (x : Nat) (h : m.wf = true) : (m.forget x).wf = true :=
  m.forget_rising none x h

end Sys2Proof.Machine
end

