-- ==== Sys2Proof/Laws/State.lean ====
section
/-!
SUPPORT. What each update does to each component of the state, true by rfl. The components are host, eng, ctl, cfg and env;
a field of a component then follows by the projections.
-/
namespace Sys2Proof.Machine

@[simp] theorem goto_host (opc : Byte) (ph : Phase) (s : State) : (goto opc ph s).host = s.host := rfl
@[simp] theorem goto_eng (opc : Byte) (ph : Phase) (s : State) : (goto opc ph s).eng = { s.eng with fsm := .run opc ph } := rfl
@[simp] theorem goto_ctl (opc : Byte) (ph : Phase) (s : State) : (goto opc ph s).ctl = s.ctl := rfl
@[simp] theorem goto_cfg (opc : Byte) (ph : Phase) (s : State) : (goto opc ph s).cfg = s.cfg := rfl
@[simp] theorem goto_env (opc : Byte) (ph : Phase) (s : State) : (goto opc ph s).env = s.env := rfl

@[simp] theorem accept_host (w : Word) (s : State) : (accept w s).host = { s.host with cmd := opcOfWord w, status := Status.accepted } := rfl
@[simp] theorem accept_eng (w : Word) (s : State) : (accept w s).eng = { s.eng with fsm := .run (opcOfWord w) (firstPhase (opcOfWord w)) } := rfl
@[simp] theorem accept_ctl (w : Word) (s : State) : (accept w s).ctl = s.ctl := rfl
@[simp] theorem accept_cfg (w : Word) (s : State) : (accept w s).cfg = s.cfg := rfl
@[simp] theorem accept_env (w : Word) (s : State) : (accept w s).env = s.env := rfl

@[simp] theorem finish_host (s : State) : (finish s).host = { s.host with status := Status.succeeded } := rfl
@[simp] theorem finish_eng (s : State) : (finish s).eng = { s.eng with fsm := .idle } := rfl
@[simp] theorem finish_ctl (s : State) : (finish s).ctl = s.ctl := rfl
@[simp] theorem finish_cfg (s : State) : (finish s).cfg = s.cfg := rfl
@[simp] theorem finish_env (s : State) : (finish s).env = s.env := rfl

@[simp] theorem raise_host (e : CmdError) (s : State) : (raise e s).host = { s.host with status := Status.failed e } := rfl
@[simp] theorem raise_eng (e : CmdError) (s : State) : (raise e s).eng = { s.eng with fsm := .idle } := rfl
@[simp] theorem raise_ctl (e : CmdError) (s : State) : (raise e s).ctl = s.ctl := rfl
@[simp] theorem raise_cfg (e : CmdError) (s : State) : (raise e s).cfg = s.cfg := rfl
@[simp] theorem raise_env (e : CmdError) (s : State) : (raise e s).env = s.env := rfl

@[simp] theorem setResult_host (b : Byte) (a : Bool) (s : State) : (setResult b a s).host = { s.host with result := ⟨b, a⟩ } := rfl
@[simp] theorem setResult_eng (b : Byte) (a : Bool) (s : State) : (setResult b a s).eng = s.eng := rfl
@[simp] theorem setResult_ctl (b : Byte) (a : Bool) (s : State) : (setResult b a s).ctl = s.ctl := rfl
@[simp] theorem setResult_cfg (b : Byte) (a : Bool) (s : State) : (setResult b a s).cfg = s.cfg := rfl
@[simp] theorem setResult_env (b : Byte) (a : Bool) (s : State) : (setResult b a s).env = s.env := rfl

@[simp] theorem setFrame_host (f : Frame) (s : State) : (setFrame f s).host = { s.host with frame := f } := rfl
@[simp] theorem setFrame_eng (f : Frame) (s : State) : (setFrame f s).eng = s.eng := rfl
@[simp] theorem setFrame_ctl (f : Frame) (s : State) : (setFrame f s).ctl = s.ctl := rfl
@[simp] theorem setFrame_cfg (f : Frame) (s : State) : (setFrame f s).cfg = s.cfg := rfl
@[simp] theorem setFrame_env (f : Frame) (s : State) : (setFrame f s).env = s.env := rfl

@[simp] theorem setWork_host (f : Frame) (s : State) : (setWork f s).host = s.host := rfl
@[simp] theorem setWork_eng (f : Frame) (s : State) : (setWork f s).eng = { s.eng with work := f } := rfl
@[simp] theorem setWork_ctl (f : Frame) (s : State) : (setWork f s).ctl = s.ctl := rfl
@[simp] theorem setWork_cfg (f : Frame) (s : State) : (setWork f s).cfg = s.cfg := rfl
@[simp] theorem setWork_env (f : Frame) (s : State) : (setWork f s).env = s.env := rfl

@[simp] theorem setConsec_host (n : BitVec 4) (s : State) : (setConsec n s).host = s.host := rfl
@[simp] theorem setConsec_eng (n : BitVec 4) (s : State) : (setConsec n s).eng = { s.eng with consec := n } := rfl
@[simp] theorem setConsec_ctl (n : BitVec 4) (s : State) : (setConsec n s).ctl = s.ctl := rfl
@[simp] theorem setConsec_cfg (n : BitVec 4) (s : State) : (setConsec n s).cfg = s.cfg := rfl
@[simp] theorem setConsec_env (n : BitVec 4) (s : State) : (setConsec n s).env = s.env := rfl

@[simp] theorem memRead_host (a : Byte) (n : Nat) (s : State) : (memRead a n s).host = s.host := rfl
@[simp] theorem memRead_eng (a : Byte) (n : Nat) (s : State) : (memRead a n s).eng = s.eng := rfl
@[simp] theorem memRead_ctl (a : Byte) (n : Nat) (s : State) : (memRead a n s).ctl = burst (Controller.observe s.cfg) a.toNat (readData n s) s.ctl := rfl
@[simp] theorem memRead_cfg (a : Byte) (n : Nat) (s : State) : (memRead a n s).cfg = s.cfg := rfl
@[simp] theorem memRead_env (a : Byte) (n : Nat) (s : State) : (memRead a n s).env = s.env.record (readBytes a n) (s.env.slots 2 ++ readData n s) n := rfl

@[simp] theorem memWrite_host (a : Byte) (v : List Byte) (s : State) : (memWrite a v s).host = s.host := rfl
@[simp] theorem memWrite_eng (a : Byte) (v : List Byte) (s : State) : (memWrite a v s).eng = s.eng := rfl
@[simp] theorem memWrite_ctl (a : Byte) (v : List Byte) (s : State) : (memWrite a v s).ctl = burst (Controller.store s.cfg) a.toNat v s.ctl := rfl
@[simp] theorem memWrite_cfg (a : Byte) (v : List Byte) (s : State) : (memWrite a v s).cfg = s.cfg := rfl
@[simp] theorem memWrite_env (a : Byte) (v : List Byte) (s : State) : (memWrite a v s).env = s.env.record (writeBytes a v) (s.env.slots (v.length + 2)) 0 := rfl

@[simp] theorem writeRegister_host (h : Bool) (a b : Byte) (s : State) : (writeRegister h a b s).host = s.host := rfl
@[simp] theorem writeRegister_eng (h : Bool) (a b : Byte) (s : State) : (writeRegister h a b s).eng = s.eng := rfl
@[simp] theorem writeRegister_ctl (h : Bool) (a b : Byte) (s : State) : (writeRegister h a b s).ctl = (memWrite a [b] s).ctl.settle h a := rfl
@[simp] theorem writeRegister_cfg (h : Bool) (a b : Byte) (s : State) : (writeRegister h a b s).cfg = s.cfg := rfl
@[simp] theorem writeRegister_env (h : Bool) (a b : Byte) (s : State) : (writeRegister h a b s).env = (memWrite a [b] s).env := rfl

/-- WRREG's write is `writeRegister`, honoured as the free value says. -/
@[simp] theorem writeHostRegister_eq (a b : Byte) (s : State) :
    writeHostRegister a b s = writeRegister (Config.honoured s.env.draws) a b s := rfl

/-- SETBAUD's write is `writeRegister`, honoured in Configuration. -/
@[simp] theorem writeTiming_eq (a b : Byte) (s : State) :
    writeTiming a b s = writeRegister (s.ctl.mode == some .configuration) a b s := rfl

@[simp] theorem bitMod_host (a m v : Byte) (s : State) : (bitMod a m v s).host = s.host := rfl
@[simp] theorem bitMod_eng (a m v : Byte) (s : State) : (bitMod a m v s).eng = s.eng := rfl
@[simp] theorem bitMod_ctl (a m v : Byte) (s : State) : (bitMod a m v s).ctl = Controller.store s.cfg a.toNat (mergeBits (Config.heldByte s.env.draws) m v) s.ctl := rfl
@[simp] theorem bitMod_cfg (a m v : Byte) (s : State) : (bitMod a m v s).cfg = s.cfg := rfl
@[simp] theorem bitMod_env (a m v : Byte) (s : State) : (bitMod a m v s).env = s.env.record (bitmodBytes a m v) (s.env.slots 4) 0 := rfl

@[simp] theorem ctlReset_host (s : State) : (ctlReset s).host = s.host := rfl
@[simp] theorem ctlReset_eng (s : State) : (ctlReset s).eng = s.eng := rfl
@[simp] theorem ctlReset_ctl (s : State) : (ctlReset s).ctl = Controller.powerOn := rfl
@[simp] theorem ctlReset_cfg (s : State) : (ctlReset s).cfg = s.cfg := rfl
@[simp] theorem ctlReset_env (s : State) : (ctlReset s).env = s.env.record resetBytes (s.env.slots 1) 0 := rfl

@[simp] theorem powerOn_cr : Controller.powerOn.cr = [] := rfl
@[simp] theorem powerOn_mode : Controller.powerOn.mode = some .configuration := rfl

@[simp] theorem controllerPowerOn_host (s : State) : (controllerPowerOn s).host = s.host := rfl
@[simp] theorem controllerPowerOn_eng (s : State) : (controllerPowerOn s).eng = s.eng := rfl
@[simp] theorem controllerPowerOn_ctl (s : State) : (controllerPowerOn s).ctl = Controller.powerOn := rfl
@[simp] theorem controllerPowerOn_cfg (s : State) : (controllerPowerOn s).cfg = s.cfg := rfl
@[simp] theorem controllerPowerOn_env (s : State) : (controllerPowerOn s).env = s.env := rfl

@[simp] theorem sampleClock_host (s : State) : (sampleClock s).host = s.host := rfl
@[simp] theorem sampleClock_eng (s : State) : (sampleClock s).eng = s.eng := rfl
@[simp] theorem sampleClock_ctl (s : State) : (sampleClock s).ctl = s.ctl := rfl
@[simp] theorem sampleClock_cfg (s : State) : (sampleClock s).cfg = s.cfg := rfl
@[simp] theorem sampleClock_env (s : State) : (sampleClock s).env = { s.env with clockGaps := s.env.clockGaps.drop 1, now := s.env.nextTime, draws := s.env.draws + 1 } := rfl

@[simp] theorem sampleStart_host (s : State) : (sampleStart s).host = s.host := rfl
@[simp] theorem sampleStart_eng (s : State) : (sampleStart s).eng = { s.eng with start := clockValue s } := rfl
@[simp] theorem sampleStart_ctl (s : State) : (sampleStart s).ctl = s.ctl := rfl
@[simp] theorem sampleStart_cfg (s : State) : (sampleStart s).cfg = s.cfg := rfl
@[simp] theorem sampleStart_env (s : State) : (sampleStart s).env = (sampleClock s).env := rfl

@[simp] theorem readLatch_host (a : Byte) (s : State) : (readLatch a s).host = s.host := rfl
@[simp] theorem readLatch_eng (a : Byte) (s : State) : (readLatch a s).eng = { s.eng with rxByte := readByte s } := rfl
@[simp] theorem readLatch_ctl (a : Byte) (s : State) : (readLatch a s).ctl = (memRead a 1 s).ctl := rfl
@[simp] theorem readLatch_cfg (a : Byte) (s : State) : (readLatch a s).cfg = s.cfg := rfl
@[simp] theorem readLatch_env (a : Byte) (s : State) : (readLatch a s).env = (memRead a 1 s).env := rfl

@[simp] theorem readHeader_host (k : Fin 5) (s : State) : (readHeader k s).host = s.host := rfl
@[simp] theorem readHeader_eng (k : Fin 5) (s : State) : (readHeader k s).eng = { s.eng with hdr := s.eng.hdr.set k (readByte s) } := rfl
@[simp] theorem readHeader_ctl (k : Fin 5) (s : State) : (readHeader k s).ctl = (memRead (rxHeaderAddr s.cfg k) 1 s).ctl := rfl
@[simp] theorem readHeader_cfg (k : Fin 5) (s : State) : (readHeader k s).cfg = s.cfg := rfl
@[simp] theorem readHeader_env (k : Fin 5) (s : State) : (readHeader k s).env = (memRead (rxHeaderAddr s.cfg k) 1 s).env := rfl

@[simp] theorem clearPort_host (s : State) : (clearPort s).host = s.host := rfl
@[simp] theorem clearPort_eng (s : State) : (clearPort s).eng = s.eng := rfl
@[simp] theorem clearPort_ctl (s : State) : (clearPort s).ctl = s.ctl := rfl
@[simp] theorem clearPort_cfg (s : State) : (clearPort s).cfg = s.cfg := rfl
@[simp] theorem clearPort_env (s : State) : (clearPort s).env = { s.env with port := none } := rfl

@[simp] theorem setInputs_host (l : List Input) (s : State) : (setInputs l s).host = s.host := rfl
@[simp] theorem setInputs_eng (l : List Input) (s : State) : (setInputs l s).eng = s.eng := rfl
@[simp] theorem setInputs_ctl (l : List Input) (s : State) : (setInputs l s).ctl = s.ctl := rfl
@[simp] theorem setInputs_cfg (l : List Input) (s : State) : (setInputs l s).cfg = s.cfg := rfl
@[simp] theorem setInputs_env (l : List Input) (s : State) : (setInputs l s).env = { s.env with inputs := l } := rfl

@[simp] theorem record_inputs (e : Env) (x y : List Byte) (n : Nat) : (e.record x y n).inputs = e.inputs := rfl
@[simp] theorem record_port (e : Env) (x y : List Byte) (n : Nat) : (e.record x y n).port = e.port := rfl
@[simp] theorem record_clockGaps (e : Env) (x y : List Byte) (n : Nat) : (e.record x y n).clockGaps = e.clockGaps := rfl
@[simp] theorem record_now (e : Env) (x y : List Byte) (n : Nat) : (e.record x y n).now = e.now := rfl
@[simp] theorem record_rdata (e : Env) (x y : List Byte) (n : Nat) : (e.record x y n).rdata = e.rdata := rfl
@[simp] theorem record_answers (e : Env) (x y : List Byte) (n : Nat) : (e.record x y n).answers = e.answers.drop n := rfl
@[simp] theorem record_draws (e : Env) (x y : List Byte) (n : Nat) : (e.record x y n).draws = e.draws + 1 := rfl
@[simp] theorem record_trace (e : Env) (x y : List Byte) (n : Nat) : (e.record x y n).trace = ⟨x, y⟩ :: e.trace := rfl

end Sys2Proof.Machine
end

