-- ==== Sys2Proof/Laws/Ops.lean ====
section
/-!
SUPPORT. What each shared operation can do, said once: the lengths of what is received, the controller's side of a burst,
and the W-bit clock arithmetic.
-/
namespace Sys2Proof.Machine

/-! ### Received bytes -/

@[simp] theorem readData_length (n : Nat) (s : State) : (readData n s).length = n := by simp [readData]

@[simp] theorem slots_length (e : Env) (n : Nat) : (e.slots n).length = n := by simp [Env.slots]

theorem readData_getElem (n : Nat) (s : State) (k : Nat) (h : k < n) :
    (readData n s)[k]'(by simpa using h) = s.env.answer k := by simp [readData]

@[simp] theorem readData_one (s : State) : readData 1 s = [readByte s] := rfl

/-- A byte that the outside world gives is the byte that is read (R70). -/
theorem answer_of_lt (e : Env) {k : Nat} (h : k < e.answers.length) : e.answer k = e.answers[k] := by
  simp [Env.answer, h]

theorem readByte_cons (s : State) (b : Byte) (rest : List Byte) (h : s.env.answers = b :: rest) : readByte s = b := by
  simp [readByte, Env.answer, h]

/-! ### The controller's side of a burst -/

/-- An invariant of the controller that one byte's effect keeps is kept by a burst from an address of the space. -/
theorem burst_keeps (P : Controller → Prop) (f : Nat → Byte → Controller → Controller)
    (hf : ∀ a b c, a < 256 → P c → P (f a b c)) (bs : List Byte) :
    ∀ a c, a < 256 → P c → P (burst f a bs c) := by
  induction bs with
  | nil => intro a c _ h; exact h
  | cons b bs ih => intro a c ha h; exact ih _ _ (Nat.mod_lt _ (by decide)) (hf a b c ha h)

/-- A burst of reads keeps the canonical form. -/
theorem burst_observe_wf (p : Params) (a : Byte) (bs : List Byte) (c : Controller) (h : c.cr.wf = true) :
    (burst (Controller.observe p) a.toNat bs c).cr.wf = true :=
  burst_keeps (fun c => c.cr.wf = true) _ (fun _ _ _ ha hc => Memory.write_wf _ _ ha hc) bs a.toNat c a.isLt h

/-- A burst of writes keeps the canonical form. -/
theorem burst_store_wf (p : Params) (a : Byte) (bs : List Byte) (c : Controller) (h : c.cr.wf = true) :
    (burst (Controller.store p) a.toNat bs c).cr.wf = true :=
  burst_keeps (fun c => c.cr.wf = true) _ (fun _ _ _ ha hc => Memory.write_wf _ _ ha hc) bs a.toNat c a.isLt h

/-- Where every byte's effect lists the byte at its own address only, a burst leaves every address alone that is not
among its addresses (R64: modulo 256). -/
theorem burst_read_other (f : Nat → Byte → Controller → Controller) (hf : ∀ a b c, (f a b c).cr = c.cr.write a b)
    (bs : List Byte) :
    ∀ a c x, a < 256 → (∀ k, k < bs.length → x ≠ (a + k) % 256) → (burst f a bs c).cr.read x = c.cr.read x := by
  induction bs with
  | nil => intro a c x _ _; rfl
  | cons b bs ih =>
    intro a c x ha hx
    have hne : x ≠ a := by have := hx 0 (by simp); simpa [Nat.mod_eq_of_lt ha] using this
    have hrest : ∀ k, k < bs.length → x ≠ ((a + 1) % 256 + k) % 256 := by
      intro k hk
      have := hx (k + 1) (by simp only [List.length_cons]; omega)
      omega
    rw [burst, ih _ _ x (Nat.mod_lt _ (by decide)) hrest, hf, Memory.read_write_other _ _ hne]

/-- After a burst of at most 256 bytes, byte `k` is listed at its address (R66, R67). -/
theorem burst_read_at (f : Nat → Byte → Controller → Controller) (hf : ∀ a b c, (f a b c).cr = c.cr.write a b)
    (bs : List Byte) :
    ∀ a c k (hk : k < bs.length), a < 256 → bs.length ≤ 256 →
      (burst f a bs c).cr.read ((a + k) % 256) = some bs[k] := by
  induction bs with
  | nil => intro a c k hk; simp at hk
  | cons b bs ih =>
    intro a c k hk ha hlen
    simp only [List.length_cons] at hk hlen
    cases k with
    | zero =>
      have hx : ∀ j, j < bs.length → a ≠ ((a + 1) % 256 + j) % 256 := by intro j hj; omega
      have h0 : (a + 0) % 256 = a := Nat.mod_eq_of_lt ha
      rw [burst, h0,
        burst_read_other f hf bs _ _ a (Nat.mod_lt _ (by decide)) hx, hf]
      simp
    | succ k =>
      have := ih ((a + 1) % 256) (f a b c) k (by omega) (Nat.mod_lt _ (by decide)) (by omega)
      have he : ((a + 1) % 256 + k) % 256 = (a + (k + 1)) % 256 := by omega
      rw [he] at this
      simpa [burst] using this

theorem observe_cr (p : Params) (a : Nat) (b : Byte) (c : Controller) :
    (Controller.observe p a b c).cr = c.cr.write a b := rfl

theorem store_cr (p : Params) (a : Nat) (b : Byte) (c : Controller) :
    (Controller.store p a b c).cr = c.cr.write a b := rfl

/-! ### The record of the mode -/

/-- The mode that the machine reads off a status byte is the one that R43 names. -/
theorem modeOfStatus_eq (b : Byte) : modeOfStatus b = reportedMode b := by revert b; decide

/-- A burst of writes keeps the record of the mode where it does not meet the control register. -/
theorem burst_store_mode_other (p : Params) (bs : List Byte) :
    ∀ a c, a < 256 → (∀ k, k < bs.length → (a + k) % 256 ≠ p.aCtrl.toNat) →
      (burst (Controller.store p) a bs c).mode = c.mode := by
  induction bs with
  | nil => intro a c _ _; rfl
  | cons b bs ih =>
    intro a c ha h
    have hne : a ≠ p.aCtrl.toNat := by have := h 0 (by simp); simpa [Nat.mod_eq_of_lt ha] using this
    have hrest : ∀ k, k < bs.length → ((a + 1) % 256 + k) % 256 ≠ p.aCtrl.toNat := by
      intro k hk
      have := h (k + 1) (by simp only [List.length_cons]; omega)
      omega
    rw [burst, ih _ _ (Nat.mod_lt _ (by decide)) hrest]
    simp [Controller.store, hne]

/-- A burst of writes that meets the control register leaves no mode known. -/
theorem burst_store_mode_ctrl (p : Params) (bs : List Byte) :
    ∀ a c, a < 256 → (∃ k, k < bs.length ∧ (a + k) % 256 = p.aCtrl.toNat) →
      (burst (Controller.store p) a bs c).mode = none := by
  have keeps : ∀ (bs : List Byte) a c, c.mode = none → (burst (Controller.store p) a bs c).mode = none := by
    intro bs
    induction bs with
    | nil => intro a c h; exact h
    | cons b bs ih => intro a c h; exact ih _ _ (by simp [Controller.store, h])
  induction bs with
  | nil => intro a c _ ⟨k, hk, _⟩; simp at hk
  | cons b bs ih =>
    intro a c ha ⟨k, hk, he⟩
    cases k with
    | zero =>
      have h0 : a = p.aCtrl.toNat := by simpa [Nat.mod_eq_of_lt ha] using he
      exact keeps bs _ _ (by simp [Controller.store, h0])
    | succ k =>
      refine ih _ _ (Nat.mod_lt _ (by decide)) ⟨k, by simpa using hk, ?_⟩
      omega

/-- A burst of reads keeps the record of the mode where it does not meet the status register. -/
theorem burst_observe_mode_other (p : Params) (bs : List Byte) :
    ∀ a c, a < 256 → (∀ k, k < bs.length → (a + k) % 256 ≠ p.aStat.toNat) →
      (burst (Controller.observe p) a bs c).mode = c.mode := by
  induction bs with
  | nil => intro a c _ _; rfl
  | cons b bs ih =>
    intro a c ha h
    have hne : a ≠ p.aStat.toNat := by have := h 0 (by simp); simpa [Nat.mod_eq_of_lt ha] using this
    have hrest : ∀ k, k < bs.length → ((a + 1) % 256 + k) % 256 ≠ p.aStat.toNat := by
      intro k hk
      have := h (k + 1) (by simp only [List.length_cons]; omega)
      omega
    rw [burst, ih _ _ (Nat.mod_lt _ (by decide)) hrest]
    simp [Controller.observe, hne]

/-- The last byte of a burst of reads at the status register gives the mode. -/
theorem burst_observe_mode_stat (p : Params) (bs : List Byte) :
    ∀ a c k (hk : k < bs.length), a < 256 → bs.length ≤ k + 256 → (a + k) % 256 = p.aStat.toNat →
      (burst (Controller.observe p) a bs c).mode = reportedMode bs[k] := by
  induction bs with
  | nil => intro a c k hk; simp at hk
  | cons b bs ih =>
    intro a c k hk ha hlen he
    simp only [List.length_cons] at hk hlen
    cases k with
    | zero =>
      have h0 : a = p.aStat.toNat := by simpa [Nat.mod_eq_of_lt ha] using he
      have hrest : ∀ j, j < bs.length → ((a + 1) % 256 + j) % 256 ≠ p.aStat.toNat := by intro j hj; omega
      rw [burst, burst_observe_mode_other p bs _ _ (Nat.mod_lt _ (by decide)) hrest]
      simp [Controller.observe, h0, modeOfStatus_eq]
    | succ k =>
      have := ih ((a + 1) % 256) (Controller.observe p a b c) k (by omega) (Nat.mod_lt _ (by decide)) (by omega)
        (by omega)
      simpa [burst] using this

/-! ### What a host's write leaves known -/

@[simp] theorem settle_mode (h : Bool) (a : Byte) (c : Controller) : (c.settle h a).mode = c.mode := by
  unfold Controller.settle; split <;> rfl

theorem settle_read_other (h : Bool) {a : Byte} (c : Controller) {x : Nat} (hx : x ≠ a.toNat) :
    (c.settle h a).cr.read x = c.cr.read x := by
  unfold Controller.settle; split
  · rfl
  · exact Memory.read_forget_other _ hx

theorem settle_wf (h : Bool) (a : Byte) (c : Controller) (hc : c.cr.wf = true) : (c.settle h a).cr.wf = true := by
  unfold Controller.settle; split
  · exact hc
  · exact Memory.forget_wf _ _ hc

/-- What the record says of the register that `writeRegister` wrote: the byte where the controller honours the write (R67),
and nothing otherwise (R132, R160). -/
theorem writeRegister_read (h : Bool) (a b : Byte) (s : State) :
    (writeRegister h a b s).ctl.cr.read a.toNat = if h then some b else none := by
  simp only [writeRegister_ctl, memWrite_ctl, burst, Controller.settle]
  split
  · exact Memory.read_write_same _ _ _
  · exact Memory.read_forget_same _ _

/-- `writeRegister` leaves the record of every other register alone. -/
theorem writeRegister_read_other (h : Bool) (a b : Byte) (s : State) {x : Nat} (hx : x ≠ a.toNat) :
    (writeRegister h a b s).ctl.cr.read x = s.ctl.cr.read x := by
  rw [writeRegister_ctl, settle_read_other _ _ hx, memWrite_ctl]
  exact Memory.read_write_other _ _ hx

/-- `writeRegister` keeps the canonical form. -/
theorem writeRegister_wf (h : Bool) (a b : Byte) (s : State) (hs : s.ctl.cr.wf = true) :
    (writeRegister h a b s).ctl.cr.wf = true :=
  settle_wf _ _ _ (burst_store_wf _ _ _ _ hs)

/-! ### Masks and W-bit values -/

/-- The mask of a bit, as the rules write it (R133). -/
theorem bitMask_eq (b : BitVec 3) : bitMask b = BitVec.ofNat 8 (2 ^ b.toNat) := by revert b; decide

theorem lowBits_toNat (w : Nat) (h : w ≤ 32) (v : Word) : (lowBits w v).toNat = v.toNat % 2 ^ w := by
  have hp : 2 ^ w ≤ 2 ^ 32 := Nat.pow_le_pow_right (by decide) h
  have h1 : 2 ^ w - 1 < 2 ^ 32 := by have := Nat.two_pow_pos w; omega
  simp only [lowBits, BitVec.toNat_and, BitVec.toNat_ofNat]
  rw [Nat.mod_eq_of_lt h1, Nat.and_two_pow_sub_one_eq_mod]

/-- A value of W bits is below 2^W. -/
theorem lowBits_lt (w : Nat) (h : w ≤ 32) (v : Word) : (lowBits w v).toNat < 2 ^ w := by
  rw [lowBits_toNat w h]; exact Nat.mod_lt _ (Nat.two_pow_pos w)

/-- `Now()` is real time modulo 2^W (R33). -/
theorem clockValue_toNat (s : State) (h : s.cfg.clockWidth ≤ 32) :
    (clockValue s).toNat = s.env.nextTime % 2 ^ s.cfg.clockWidth := by
  rw [clockValue, lowBits_toNat _ h, BitVec.toNat_ofNat]
  exact Nat.mod_mod_of_dvd _ (Nat.pow_dvd_pow 2 h)

/-- The bounds on W of well-formed parameters (R8). -/
theorem Params.wf_width {p : Params} (h : p.wf = true) : 1 ≤ p.clockWidth ∧ p.clockWidth ≤ 32 := by
  simp only [Params.wf, Bool.and_eq_true, decide_eq_true_eq] at h
  exact ⟨h.1.1.1, h.1.1.2⟩

end Sys2Proof.Machine
end

