-- ==== Sys2Proof/Laws/Control.lean ====
section
/-!
SUPPORT. Inversion of the control structure, said once: what `command`, `straightLine`, `receive` and the body of XMIT can
answer. A later proof cites these and does not unfold them.
-/
namespace Sys2Proof.Machine

/-! ### command -/

/-- A running command makes a step of its body. -/
theorem command_run {opc : Byte} {body : Phase → State → Outcome} {s : State} {ph : Phase} (h : s.at opc ph) :
    command opc body s = body ph s := by
  simp [command, show s.eng.fsm = .run opc ph from h]

/-- An idle engine accepts the command (R212). -/
theorem command_idle {opc : Byte} {body : Phase → State → Outcome} {s : State} (h : s.eng.fsm = .idle) :
    command opc body s = .next (accept (cmdWord opc) s) := by simp [command, h]

/-- A command is ignored while another runs (R62, R217). -/
theorem command_other {opc o : Byte} {body : Phase → State → Outcome} {s : State} {ph : Phase}
    (h : s.eng.fsm = .run o ph) (ho : o ≠ opc) : command opc body s = .next s := by simp [command, h, ho]

/-- Everything `command` can answer. -/
theorem command_next {opc : Byte} {body : Phase → State → Outcome} {s t : State}
    (h : command opc body s = .next t) :
    (s.eng.fsm = .idle ∧ t = accept (cmdWord opc) s) ∨ (∃ ph, s.at opc ph ∧ body ph s = .next t) ∨
      (∃ o ph, o ≠ opc ∧ s.eng.fsm = .run o ph ∧ t = s) := by
  unfold command at h
  split at h
  · rename_i hf; injection h with h; exact .inl ⟨hf, h.symm⟩
  · rename_i o ph hf
    split at h
    · rename_i ho; subst ho; exact .inr (.inl ⟨ph, hf, h⟩)
    · rename_i ho; injection h with h; exact .inr (.inr ⟨o, ph, ho, hf, h.symm⟩)

/-! ### execs -/

/-- A run of `k + 1` steps begins with one step. -/
theorem execs_succ {i : Instr} {k : Nat} {s t : State} (h : exec i s = .next t) : execs i (k + 1) s = execs i k t := by
  simp [execs, h]

/-! ### straightLine -/

/-- Step `k` makes transaction `k` of the procedure. -/
theorem straightLine_op {opc : Byte} {ops : List (State → State)} {complete : State → State} {k : Nat} {s : State}
    {op : State → State} (h : ops[k]? = some op) :
    straightLine opc ops complete (.line k) s = .next (goto opc (.line (k + 1)) (op s)) := by
  simp [straightLine, h]

/-- The step after the last transaction completes the command. -/
theorem straightLine_complete {opc : Byte} {ops : List (State → State)} {complete : State → State} {s : State} :
    straightLine opc ops complete (.line ops.length) s = .next (complete s) := by
  simp [straightLine]

/-- Everything `straightLine` can answer. -/
theorem straightLine_next {opc : Byte} {ops : List (State → State)} {complete : State → State} {ph : Phase}
    {s t : State} (h : straightLine opc ops complete ph s = .next t) :
    (∃ k op, ph = .line k ∧ ops[k]? = some op ∧ t = goto opc (.line (k + 1)) (op s)) ∨
      (ph = .line ops.length ∧ t = complete s) := by
  unfold straightLine at h
  split at h
  · rename_i k
    split at h
    · rename_i op ho; injection h with h; exact .inl ⟨k, op, rfl, ho, h.symm⟩
    · split at h
      · rename_i hk; injection h with h; exact .inr ⟨by rw [hk], h.symm⟩
      · cases h
  · cases h

/-- `straightLine` has an answer at each of its steps. -/
theorem straightLine_answers {opc : Byte} {ops : List (State → State)} {complete : State → State} {ph : Phase}
    (s : State) (h : linePhase ops.length ph = true) : ∃ t, straightLine opc ops complete ph s = .next t := by
  cases ph <;> simp only [linePhase, Bool.false_eq_true, decide_eq_true_eq] at h
  rename_i k
  by_cases hk : k < ops.length
  · exact ⟨_, straightLine_op (List.getElem?_eq_getElem hk)⟩
  · have : k = ops.length := by omega
    subst this; exact ⟨_, straightLine_complete⟩

/-! ### receive -/

/-- The step of each phase of a base receive. -/
def receiveStep (opc : Byte) (policy : Policy) (onReturn : RxResult → State → State) (s : State) : Phase → State
  | .s0 => if policy = .timed then goto opc .sp (sampleStart s) else goto opc .sp s
  | .sp => receivePoll opc policy s
  | .st => receiveClock opc s
  | .sh k => if h : k.val < 4 then goto opc (.sh ⟨k.val + 1, by omega⟩) (readHeader k s) else decodeHeader opc (readHeader k s)
  | .sd => goto opc .sxc (readPayload s)
  | .sxc => goto opc (.ret .frame) (clearFlag s.cfg.rxfBit s)
  | .sxb => goto opc (.ret .badDlc) (clearFlag s.cfg.rxfBit s)
  | .ret r => onReturn r s
  | .line _ | .th _ | .td | .tr | .ts | .ta | .tc _ | .fin _ => s

/-- `receive` has an answer in each phase of its policy. -/
theorem receive_run {opc : Byte} {policy : Policy} {onReturn : RxResult → State → State} {ph : Phase} (s : State)
    (h : receivePhase policy ph = true) :
    receive opc policy onReturn ph s = .next (receiveStep opc policy onReturn s ph) := by
  cases ph <;> try (simp [receivePhase] at h; done)
  all_goals try rfl
  · cases policy <;> rfl
  · cases policy
    · simp [receivePhase] at h
    · rfl
  · rename_i k; match k with
    | 0 => rfl
    | 1 => rfl
    | 2 => rfl
    | 3 => rfl
    | 4 => rfl

/-- Everything `receive` can answer. -/
theorem receive_next {opc : Byte} {policy : Policy} {onReturn : RxResult → State → State} {ph : Phase} {s t : State}
    (h : receive opc policy onReturn ph s = .next t) :
    receivePhase policy ph = true ∧ t = receiveStep opc policy onReturn s ph := by
  have hp : receivePhase policy ph = true := by
    cases policy <;> cases ph <;> first | rfl | (simp [receive] at h)
  rw [receive_run s hp] at h
  injection h with h
  exact ⟨hp, h.symm⟩

/-! ### XMIT -/

/-- The step of each phase of XMIT. -/
def xmitStep (s : State) : Phase → State
  | .s0 => xmitCheck s
  | .th k => if h : k.val < 4 then goto Opc.xmit (.th ⟨k.val + 1, by omega⟩) (writeHeader k s) else goto Opc.xmit .td (writeHeader k s)
  | .td => goto Opc.xmit .tr (writePayload s)
  | .tr => goto Opc.xmit .ts (transmitRequest true s)
  | .ts => goto Opc.xmit .sp (sampleStart s)
  | .sp => xmitPoll s
  | .st => xmitClock s
  | .ta => goto Opc.xmit (.tc .expired) (transmitRequest false s)
  | .tc w => goto Opc.xmit (.fin w) (clearFlag s.cfg.txfBit s)
  | .fin w => xmitFinish w s
  | .line _ | .sh _ | .sd | .sxc | .sxb | .ret _ => s

/-- XMIT has an answer in each of its phases. -/
theorem xmitBody_run {ph : Phase} (s : State) (h : xmitPhase ph = true) : xmitBody ph s = .next (xmitStep s ph) := by
  cases ph <;> try (simp [xmitPhase] at h; done)
  all_goals try rfl
  rename_i k; match k with
  | 0 => rfl
  | 1 => rfl
  | 2 => rfl
  | 3 => rfl
  | 4 => rfl

/-- One step of a running XMIT. -/
theorem exec_xmit {s : State} {ph : Phase} (h : s.at Opc.xmit ph) (hp : xmitPhase ph = true) :
    exec .xmit s = .next (xmitStep s ph) :=
  (command_run h).trans (xmitBody_run s hp)

/-- Everything the body of XMIT can answer. -/
theorem xmitBody_next {ph : Phase} {s t : State} (h : xmitBody ph s = .next t) :
    xmitPhase ph = true ∧ t = xmitStep s ph := by
  have hp : xmitPhase ph = true := by
    cases ph <;> first | rfl | (simp [xmitBody] at h)
  rw [xmitBody_run s hp] at h
  injection h with h
  exact ⟨hp, h.symm⟩

/-! ### The opcode table -/

/-- An opcode names the command of its row (R81). -/
theorem decodeOpc_mem {opc : Byte} {i : Instr} (h : decodeOpc opc = some i) : (opc, i) ∈ cmdTable := by
  unfold decodeOpc at h
  simp only [Option.map_eq_some_iff] at h
  obtain ⟨⟨o, j⟩, hf, rfl⟩ := h
  have h1 := List.find?_some hf
  simp only [beq_iff_eq] at h1
  subst h1
  exact List.mem_of_find?_eq_some hf

end Sys2Proof.Machine
end

