-- ==== Sys2Proof/Laws/PerInstr.lean ====
section
/-!
SUPPORT. The family Lead: the leading byte of every instruction's code is the `match` of its row of spec/opcode_table.json
(OPC for a command word, byte 0 for a transaction).
-/
namespace Sys2Proof.Laws.Lead

/-- The byte that the opcode table matches on: mask 0xFF of a command word, or byte 0 of a transaction. -/
def leadByte : Code → Byte
  | .cmd w => opcOfWord w
  | .xact bytes => bytes.headD 0

/-- The `match` column of spec/opcode_table.json. -/
def rowMatch : Instr → Byte
  | .encid => 0x01
  | .decid => 0x02
  | .encctl => 0x03
  | .decctl => 0x04
  | .rdreg => 0x10
  | .wrreg => 0x11
  | .wrbit => 0x12
  | .creset => 0x13
  | .mnormal => 0x20
  | .mrxonly => 0x21
  | .msleep => 0x22
  | .awake => 0x23
  | .setbaud => 0x24
  | .recv => 0x30
  | .sniff => 0x31
  | .recvf => 0x32
  | .xmit => 0x33
  | .ctlReset => 0xC0
  | .ctlRead _ _ => 0x03
  | .ctlWrite _ _ => 0x02
  | .ctlBitmod _ _ _ => 0x05
  | .ctlReadRxBuffer => 0x90
  | .ctlLoadTxBuffer => 0x40
  | .ctlRequestToSend => 0x80
  | .ctlReadStatus => 0xA0

/-- The leading byte of an instruction's code is its row's. -/
def Statement (i : Instr) : Prop := leadByte (encode i) = rowMatch i

theorem encid : Statement .encid := by unfold Statement; decide
theorem decid : Statement .decid := by unfold Statement; decide
theorem encctl : Statement .encctl := by unfold Statement; decide
theorem decctl : Statement .decctl := by unfold Statement; decide
theorem rdreg : Statement .rdreg := by unfold Statement; decide
theorem wrreg : Statement .wrreg := by unfold Statement; decide
theorem wrbit : Statement .wrbit := by unfold Statement; decide
theorem creset : Statement .creset := by unfold Statement; decide
theorem mnormal : Statement .mnormal := by unfold Statement; decide
theorem mrxonly : Statement .mrxonly := by unfold Statement; decide
theorem msleep : Statement .msleep := by unfold Statement; decide
theorem awake : Statement .awake := by unfold Statement; decide
theorem setbaud : Statement .setbaud := by unfold Statement; decide
theorem recv : Statement .recv := by unfold Statement; decide
theorem sniff : Statement .sniff := by unfold Statement; decide
theorem recvf : Statement .recvf := by unfold Statement; decide
theorem xmit : Statement .xmit := by unfold Statement; decide
theorem ctlReset : Statement .ctlReset := rfl
theorem ctlRead (addr : Byte) (n : Nat) : Statement (.ctlRead addr n) := rfl
theorem ctlWrite (addr : Byte) (data : List Byte) : Statement (.ctlWrite addr data) := rfl
theorem ctlBitmod (addr mask value : Byte) : Statement (.ctlBitmod addr mask value) := rfl
theorem ctlReadRxBuffer : Statement .ctlReadRxBuffer := rfl
theorem ctlLoadTxBuffer : Statement .ctlLoadTxBuffer := rfl
theorem ctlRequestToSend : Statement .ctlRequestToSend := rfl
theorem ctlReadStatus : Statement .ctlReadStatus := rfl

end Sys2Proof.Laws.Lead
end

