-- ==== Sys2Proof/Machine/HostProgram.lean ====
section
/-!
DEFINITION. The notation of host programs (30_encoding.md R93, R94) as inputs of the machine: each line's encoding is its
host access. The block itself executes no program; the lines are what the host does.
-/
namespace Sys2Proof.Machine

/-- One line of a host program (R93). -/
inductive HostLine where
  | wr (r : HostReg) (imm : Word)
  | rd (r : HostReg)
  | cmd (opc : Byte)
  | wait
  deriving DecidableEq, Repr

/-- The host access of a line (R93). -/
def HostLine.input : HostLine → Input
  | .wr r imm => .write r.offset 32 imm
  | .rd r => .read r.offset 32
  | .cmd opc => .write HostReg.cmd.offset 32 (cmdWord opc)
  | .wait => .wait

/-- The inputs of a host program. -/
def hostProgram (lines : List HostLine) : List Input := lines.map HostLine.input

/-- `do MNEMONIC` (R94). -/
def pseudoDo (opc : Byte) : List HostLine := [.cmd opc, .wait]

/-- `recv t` (R94). -/
def pseudoRecv (t : Word) : List HostLine := .wr .timeout t :: pseudoDo Opc.recv

/-- `recvf t, id` (R94). -/
def pseudoRecvf (t id : Word) : List HostLine := .wr .timeout t :: .wr .target id :: pseudoDo Opc.recvf

/-- `xmit t` (R94). -/
def pseudoXmit (t : Word) : List HostLine := .wr .timeout t :: pseudoDo Opc.xmit

/-- `rdreg a` (R94). -/
def pseudoRdreg (a : Word) : List HostLine := .wr .regaddr a :: pseudoDo Opc.rdreg ++ [.rd .result]

/-- `wrreg a, d` (R94). -/
def pseudoWrreg (a d : Word) : List HostLine := .wr .regaddr a :: .wr .regdata d :: pseudoDo Opc.wrreg

/-- `wrbit a, i, b` (R94). -/
def pseudoWrbit (a i b : Word) : List HostLine := .wr .regaddr a :: .wr .regbit ((b <<< 8) ||| i) :: pseudoDo Opc.wrbit

/-- `setbaud k` (R94). -/
def pseudoSetbaud (k : Word) : List HostLine := .wr .baud k :: pseudoDo Opc.setbaud

/-- `frame id, ext, eid, rtr, dlc, d0..d7` (R94). -/
def pseudoFrame (id ext eid rtr dlc : Word) (d : Payload) : List HostLine :=
  [.wr .frameId id, .wr .frameEid eid, .wr .frameCtl ((rtr <<< 5) ||| (ext <<< 4) ||| dlc),
   .wr .frameData0 (lanes d.d0 d.d1 d.d2 d.d3), .wr .frameData1 (lanes d.d4 d.d5 d.d6 d.d7)]

end Sys2Proof.Machine
end

