-- ==== Sys2Proof/Tests/Slice0.lean ====
section
/-!
SUPPORT. Tests on the spec's own words and vectors (95_test_vectors.md, cited by their names), and a witness for each
statement that has hypotheses.
-/
namespace Sys2Proof.Machine.Tests

/-! ### The checks of WellFormed refuse an ill-formed term -/

theorem test_wf_refuses_empty_read : (Instr.ctlRead 0x2C 0).wf = false := by decide
theorem test_wf_refuses_empty_write : (Instr.ctlWrite 0x2C []).wf = false := by decide
theorem test_wf_accepts_one_byte : (Instr.ctlRead 0x2C 1).wf = true ∧ (Instr.ctlWrite 0x2C [0]).wf = true := by decide
theorem test_params_refuse_no_clock : ({ Config.default with clockWidth := 0 } : Params).wf = false := by decide
theorem test_params_refuse_wide_clock : ({ Config.default with clockWidth := 33 } : Params).wf = false := by decide
theorem test_params_refuse_wrapping_tx : ({ Config.default with aTxd0 := 0xF9 } : Params).wf = false := by decide
theorem test_params_refuse_wrapping_rx : ({ Config.default with aRxd0 := 0xF9 } : Params).wf = false := by decide
theorem test_params_accept_default : Config.default.wf = true := by decide

/-! ### Decoding: words written out bit by bit from R81 and R82 -/

theorem test_decode_encid : decodeCmd 0b00000000000000000000000000000001 = .ok .encid := by decide
theorem test_decode_decid : decodeCmd 0b00000000000000000000000000000010 = .ok .decid := by decide
theorem test_decode_encctl : decodeCmd 0b00000000000000000000000000000011 = .ok .encctl := by decide
theorem test_decode_decctl : decodeCmd 0b00000000000000000000000000000100 = .ok .decctl := by decide
theorem test_decode_rdreg : decodeCmd 0b00000000000000000000000000010000 = .ok .rdreg := by decide
theorem test_decode_wrreg : decodeCmd 0b00000000000000000000000000010001 = .ok .wrreg := by decide
theorem test_decode_wrbit : decodeCmd 0b00000000000000000000000000010010 = .ok .wrbit := by decide
theorem test_decode_creset : decodeCmd 0b00000000000000000000000000010011 = .ok .creset := by decide
theorem test_decode_mnormal : decodeCmd 0b00000000000000000000000000100000 = .ok .mnormal := by decide
theorem test_decode_mrxonly : decodeCmd 0b00000000000000000000000000100001 = .ok .mrxonly := by decide
theorem test_decode_msleep : decodeCmd 0b00000000000000000000000000100010 = .ok .msleep := by decide
theorem test_decode_awake : decodeCmd 0b00000000000000000000000000100011 = .ok .awake := by decide
theorem test_decode_setbaud : decodeCmd 0b00000000000000000000000000100100 = .ok .setbaud := by decide
theorem test_decode_recv : decodeCmd 0b00000000000000000000000000110000 = .ok .recv := by decide
theorem test_decode_sniff : decodeCmd 0b00000000000000000000000000110001 = .ok .sniff := by decide
theorem test_decode_recvf : decodeCmd 0b00000000000000000000000000110010 = .ok .recvf := by decide
theorem test_decode_xmit : decodeCmd 0b11111111111111111111111100110011 = .ok .xmit := by decide
theorem test_decode_illegal : decodeCmd 0x00000034 = .reject (.illegalOpcode 0x34) := by decide
theorem test_decode_ctl_reset : decodeXact [0b11000000] = .ok .ctlReset := by decide
theorem test_decode_ctl_read : decodeXact [0b00000011, 0x66, 0, 0] = .ok (.ctlRead 0x66 2) := by decide
theorem test_decode_ctl_write : decodeXact [0b00000010, 0x36, 0xAA, 0xBB] = .ok (.ctlWrite 0x36 [0xAA, 0xBB]) := by decide
theorem test_decode_ctl_bitmod : decodeXact [0b00000101, 0x2C, 0x01, 0x00] = .ok (.ctlBitmod 0x2C 0x01 0x00) := by decide
theorem test_decode_ctl_read_rx : decodeXact [0b10010000] = .ok .ctlReadRxBuffer := by decide
theorem test_decode_ctl_load_tx : decodeXact [0b01000000] = .ok .ctlLoadTxBuffer := by decide
theorem test_decode_ctl_rts : decodeXact [0b10000000] = .ok .ctlRequestToSend := by decide
theorem test_decode_ctl_read_status : decodeXact [0b10100000] = .ok .ctlReadStatus := by decide
theorem test_decode_rejects_filler : decodeXact [0x03, 0x2C, 0x01] = .reject .nonzeroFiller := by decide
theorem test_table_word_xmit : decodeTableWord 32 0x33 = some .xmit := by decide
theorem test_table_word_ctl_read : decodeTableWord 8 0x03 = some (.ctlRead 0 1) := by decide

/-! ### One step on a small state -/

/-- A block that runs a command at a phase, with the default parameters. -/
def running (opc : Byte) (ph : Phase) : State :=
  { State.reset with
    host := { HostRegs.reset with cmd := opc, status := Status.accepted }
    eng := { State.reset.eng with fsm := .run opc ph } }

/-- The same, the outside world having spoken. -/
def runningIn (opc : Byte) (ph : Phase) (answers : List Byte) (gaps : List Nat) : State :=
  let s := running opc ph
  { s with env := { s.env with answers := answers, clockGaps := gaps } }

/-- A block at rest whose host moves next. -/
def idleWith (inputs : List Input) : State :=
  { State.reset with env := { State.reset.env with inputs := inputs } }

/-- What is seen of the next state. -/
def seen {α : Type} (f : State → α) : Outcome → Option α
  | .next t => some (f t)
  | _ => none

/-- STATUS as the host reads it. -/
def statusOf (s : State) : Word := s.host.read .status

/-- A frame of dataLength `n` and zeros. -/
def frameOf (n : BitVec 4) : Frame := { Frame.zero with dataLength := n }

/-- V-C9. -/
theorem test_encid_extended :
    seen (fun t => (t.host.read .pack, statusOf t))
      (step (setFrame ⟨0x7FF, true, 0x3FFFF, false, 0, Payload.zero⟩ (running 0x01 (.line 0)))) =
        some (0xFFFFEBFF, 0x00000006) := by decide

/-- V-C7. -/
theorem test_encid_ignores_extension :
    seen (fun t => t.host.read .pack)
      (step (setFrame ⟨0x7E8, false, 0x3FFFF, false, 0, Payload.zero⟩ (running 0x01 (.line 0)))) =
        some 0x000000FD := by decide

/-- Set PACK and PACKDLC. -/
def withPack (p : PackedId) (b : Byte) (s : State) : State := { s with host := { s.host with pack := p, packDlc := b } }

/-- V-C15. -/
theorem test_decid_ignored_bits :
    seen (fun t => (t.host.read .frameId, t.host.read .frameEid, t.host.read .frameCtl))
      (step (withPack ⟨0x00, 0x1F, 0x12, 0x34⟩ 0 (running 0x02 (.line 0)))) =
        some (0x000, 0x31234, 0x10) := by decide

/-- V-C14. -/
theorem test_decid_standard :
    seen (fun t => (t.host.read .frameId, t.host.read .frameEid, t.host.read .frameCtl))
      (step (withPack ⟨0xFD, 0x17, 0xAA, 0x55⟩ 0 (running 0x02 (.line 0)))) =
        some (0x7E8, 0, 0) := by decide

/-- V-C19. -/
theorem test_encctl_remote :
    seen (fun t => (t.host.packDlc, statusOf t))
      (step (setFrame ⟨0, false, 0, true, 8, Payload.zero⟩ (running 0x03 (.line 0)))) =
        some (0x48, 0x00000006) := by decide

/-- V-C20. -/
theorem test_encctl_bad_frame :
    seen (fun t => (t.host.packDlc, statusOf t)) (step (setFrame (frameOf 9) (running 0x03 (.line 0)))) =
      some (0x00, 0x00000062) := by decide

/-- V-C23. -/
theorem test_decctl_remote :
    seen (fun t => (t.host.read .frameCtl, statusOf t)) (step (withPack PackedId.zero 0x43 (running 0x04 (.line 0)))) =
      some (0x23, 0x00000006) := by decide

/-- V-C25. -/
theorem test_decctl_bad_dlc :
    seen (fun t => (t.host.read .frameCtl, statusOf t)) (step (withPack PackedId.zero 0x49 (running 0x04 (.line 0)))) =
      some (0x00, 0x00000052) := by decide

/-- Set the register access operands. -/
def withOperands (a d : Byte) (b : RegBit) (s : State) : State :=
  { s with host := { s.host with regAddr := a, regData := d, regBit := b } }

/-- Set the read latch. -/
def withLatch (b : Byte) (s : State) : State := { s with eng := { s.eng with rxByte := b } }

/-- V-A1: the transaction step. -/
theorem test_rdreg_transaction :
    seen (fun t => (t.sent, t.eng.rxByte, statusOf t))
      (step (withOperands 0x1C 0 ⟨0, false⟩ (runningIn 0x10 (.line 0) [0x05] []))) =
        some ([[0x03, 0x1C, 0x00]], 0x05, 0x00000001) := by decide

/-- V-A2: the completion step. -/
theorem test_rdreg_completion :
    seen (fun t => (t.host.read .result, statusOf t)) (step (withLatch 0xA5 (running 0x10 (.line 1)))) =
      some (0x000000A5, 0x00000006) := by decide

/-- V-A3. -/
theorem test_wrreg_transaction :
    seen State.sent (step (withOperands 0x2B 0x00 ⟨0, false⟩ (running 0x11 (.line 0)))) =
      some [[0x02, 0x2B, 0x00]] := by decide

/-- Set the controller mode last established. -/
def withMode (m : Option CtlMode) (s : State) : State := { s with ctl := { s.ctl with mode := m } }

/-- R132: a write that the controller does not honour leaves its register to the oracle, and one that it honours sets it. -/
theorem test_write_register_honoured :
    (writeRegister false 0x2B 0x07 State.reset).ctl.cr = [] ∧
      (writeRegister true 0x2B 0x07 State.reset).ctl.cr = [(0x2B, 0x07)] := by decide

/-- V-A5. -/
theorem test_wrbit_clear :
    seen State.sent (step (withOperands 0x30 0 ⟨3, false⟩ (running 0x12 (.line 0)))) =
      some [[0x05, 0x30, 0x08, 0x00]] := by decide

/-- V-A4. -/
theorem test_wrbit_set :
    seen State.sent (step (withOperands 0x2B 0 ⟨6, true⟩ (running 0x12 (.line 0)))) =
      some [[0x05, 0x2B, 0x40, 0x40]] := by decide

/-- V-A7. -/
theorem test_creset :
    seen (fun t => (t.sent, t.ctl.mode)) (step (withMode none (running 0x13 (.line 0)))) =
      some ([[0xC0]], some .configuration) := by decide

/-- V-M1: the third transaction. -/
theorem test_mnormal_disables_wake :
    seen State.sent (step (running 0x20 (.line 2))) = some [[0x05, 0x2B, 0x40, 0x00]] := by decide

/-- V-M3. -/
theorem test_mnormal_not_confirmed :
    seen (fun t => (t.host.read .result, statusOf t)) (step (withLatch 0x80 (running 0x20 (.line 4)))) =
      some (0x00000180, 0x00000012) := by decide

/-- V-M2: the first transaction. -/
theorem test_mrxonly_request :
    seen State.sent (step (running 0x21 (.line 0))) = some [[0x02, 0x0F, 0x60]] := by decide

/-- V-M6. -/
theorem test_mrxonly_confirmed :
    seen (fun t => (t.host.read .result, statusOf t)) (step (withLatch 0x7F (running 0x21 (.line 2)))) =
      some (0x0000017F, 0x00000006) := by decide

/-- V-M4: the first transaction. -/
theorem test_msleep_enables_wake :
    seen State.sent (step (running 0x22 (.line 0))) = some [[0x05, 0x2B, 0x40, 0x40]] := by decide

/-- V-M5. -/
theorem test_msleep_not_confirmed :
    seen (fun t => (t.host.read .result, statusOf t)) (step (withLatch 0x00 (running 0x22 (.line 3)))) =
      some (0x00000100, 0x00000012) := by decide

/-- V-M9. -/
theorem test_awake_asleep :
    seen (fun t => (t.host.read .result, statusOf t)) (step (withLatch 0x3F (running 0x23 (.line 1)))) =
      some (0x0000003F, 0x00000006) := by decide

/-- Set BAUD. -/
def withBaud (k : BitVec 16) (s : State) : State := { s with host := { s.host with baud := k } }

/-- V-B1. -/
theorem test_setbaud_unsupported :
    seen (fun t => (t.sent, statusOf t)) (step (withBaud 1000 (running 0x24 (.line 0)))) =
      some ([], 0x00000022) := by decide

/-- R160: SETBAUD outside Configuration makes its writes, and the registers are left to the oracle. -/
theorem test_setbaud_outside_configuration :
    seen (fun t => (t.sent.length, t.ctl.cr)) (step (withMode none (withBaud 500 (running 0x24 (.line 2))))) =
      some (1, []) := by decide

/-- R53: the controller's own power-on. -/
theorem test_controller_power_on :
    seen (fun t => (t.ctl, t.sent)) (step (withMode (some .sleep) (idleWith [.controllerPowerOn]))) =
      some (⟨[], some .configuration⟩, []) := by decide

/-- Set TIMEOUT, E.start and E.consec. -/
def withWait (timeout start : Word) (n : BitVec 4) (s : State) : State :=
  { s with host := { s.host with timeout := timeout }, eng := { s.eng with start := start, consec := n } }

/-- V-R3: the sample 0x10 is 0x20 ms after 0xFFFFFFF0. -/
theorem test_recv_expires_across_wrap :
    seen (fun t => t.eng.fsm) (step (withWait 0x20 0xFFFFFFF0 0 (runningIn 0x30 .st [] [0x10]))) =
      some (.run 0x30 (.ret .expired)) := by decide

/-- V-R3: the sample 0x5 is 0x15 ms after 0xFFFFFFF0. -/
theorem test_recv_waits_across_wrap :
    seen (fun t => t.eng.fsm) (step (withWait 0x20 0xFFFFFFF0 0 (runningIn 0x30 .st [] [0x5]))) =
      some (.run 0x30 .sp) := by decide

/-- V-S1. -/
theorem test_sniff_no_frame :
    seen (fun t => (t.sent, t.eng.fsm)) (step (runningIn 0x31 .sp [0x00] [])) =
      some ([[0x03, 0x2C, 0x00]], .run 0x31 (.ret .expired)) := by decide

/-- V-R5: the poll finds RXF among other flags. -/
theorem test_sniff_frame :
    seen (fun t => t.eng.fsm) (step (runningIn 0x31 .sp [0x05] [])) = some (.run 0x31 (.sh 0)) := by decide

/-- V-F2: the eighth timeout. -/
theorem test_recvf_gives_up :
    seen statusOf (step (withWait 0 0 7 (running 0x32 (.ret .expired)))) = some 0x00000082 := by decide

/-- V-F5: a bad DLC after seven timeouts. -/
theorem test_recvf_bad_dlc :
    seen statusOf (step (withWait 0 0 7 (running 0x32 (.ret .badDlc)))) = some 0x00000052 := by decide

/-- V-X3. -/
theorem test_xmit_bad_frame :
    seen (fun t => (t.sent, statusOf t)) (step (setFrame (frameOf 9) (running 0x33 .s0))) =
      some ([], 0x00000062) := by decide

/-- V-X4: the payload write. -/
theorem test_xmit_payload :
    seen State.sent (step (setFrame ⟨0x7E8, false, 0, true, 2, ⟨0xAA, 0xBB, 0, 0, 0, 0, 0, 0⟩⟩ (running 0x33 .td))) =
      some [[0x02, 0x36, 0xAA, 0xBB]] := by decide

/-- R67: a burst of two bytes. -/
theorem test_ctl_write :
    seen (fun t => t.ctl.cr) (exec (.ctlWrite 0xFF [0x11, 0x22]) State.reset) =
      some [(0x00, 0x22), (0xFF, 0x11)] := by decide

/-- R66: a burst of two bytes. -/
theorem test_ctl_read :
    seen (fun t => (t.ctl.cr, t.sent)) (exec (.ctlRead 0x66 2) (runningIn 0x30 .sd [0x11, 0x22] [])) =
      some ([(0x66, 0x11), (0x67, 0x22)], [[0x03, 0x66, 0x00, 0x00]]) := by decide

/-- R69. -/
theorem test_ctl_reset : seen State.sent (exec .ctlReset State.reset) = some [[0xC0]] := by decide

/-- V-A6. -/
theorem test_ctl_bitmod :
    seen State.sent (exec (.ctlBitmod 0x2C 0x01 0x01) State.reset) = some [[0x05, 0x2C, 0x01, 0x01]] := by decide

/-- V-I2, V-I3: the engine step. -/
theorem test_illegal_opcode :
    seen (fun t => (t.sent, statusOf t)) (step (running 0x34 (.line 0))) = some ([], 0x000000F2) := by decide

/-- V-I4. -/
theorem test_cmd_write_upper_bits :
    seen (fun t => (t.host.read .cmd, statusOf t, t.eng.fsm)) (step (idleWith [.write 0x00 32 0xFFFFFF01])) =
      some (0x01, 0x00000001, .run 0x01 (.line 0)) := by decide

/-- V-I5. -/
theorem test_busy_write_ignored :
    seen (fun t => t.host.read .timeout) (hostWrite 0x08 32 5 (running 0x30 .sp)) = some 0 := by decide

/-- V-I8. -/
theorem test_reserved_reads_zero :
    seen (fun t => t.env.rdata) (step (idleWith [.read 0x40 32])) = some 0 := by decide

/-- V-I9. -/
theorem test_frame_id_width :
    seen (fun t => t.host.read .frameId) (step (idleWith [.write 0x24 32 0xFFFFFFFF])) = some 0x000007FF := by decide

/-- R61: an access at an offset that is no multiple of 4. -/
theorem test_unaligned_refused :
    (match step (idleWith [.read 0x02 32]) with
      | .refused r => some r
      | _ => none) = some .hostAccessOutsideInterface := by decide

/-- The line `frame 0x7DF, 0, 0, 0, 8, ...` of program P2. -/
theorem test_pseudo_frame :
    hostProgram (pseudoFrame 0x7DF 0 0 0 8 ⟨2, 1, 0x0C, 0, 0, 0, 0, 0⟩) =
      [.write 0x24 32 0x7DF, .write 0x28 32 0, .write 0x2C 32 8, .write 0x30 32 0x000C0102, .write 0x34 32 0] := by decide

/-- A row's word placed by withFetchWord runs as the next step. -/
theorem test_with_fetch_word :
    seen statusOf (step (State.reset.withFetchWord 32 0x01)) = some 0x00000006 ∧
      seen State.sent (step (State.reset.withFetchWord 8 0x05)) = some [[0x05, 0x00, 0x00, 0x00]] := by decide

/-! ### Witnesses: for each statement with hypotheses, concrete states and operands that meet them, clause by clause -/

/-- A state that runs a command in a phase of its own meets the invariant, whatever has been said and timed. -/
theorem inv_running (opc : Byte) (ph : Phase) (answers : List Byte) (gaps : List Nat) (timeout start : Word)
    (h : legalPhase opc ph = true) : (withWait timeout start 0 (runningIn opc ph answers gaps)).Inv where
  params := test_params_accept_default
  status := rfl
  busy := rfl
  control := by
    intro o p hf
    cases hf
    exact ⟨rfl, h⟩
  timeout := timeout.isLt
  start := start.isLt
  consec := Nat.zero_le 8
  retries _ _ _ := Nat.zero_lt_succ 7
  workLength _ _ _ _ := Nat.zero_le 8
  xmitLength _ _ _ := Nat.zero_le 8
  memory := rfl
  trace := by
    intro t ht
    cases ht

/-- A block at rest meets the invariant, whatever its host will do. -/
theorem inv_idle (inputs : List Input) : (idleWith inputs).Inv where
  params := test_params_accept_default
  status := rfl
  busy := rfl
  control _ _ h := by cases h
  timeout := Nat.two_pow_pos 32
  start := Nat.two_pow_pos 32
  consec := Nat.zero_le 8
  retries _ h := by cases h
  workLength _ _ h := by cases h
  xmitLength _ h := by cases h
  memory := rfl
  trace := by
    intro t ht
    cases ht

/-- A block that runs a command, and whose host moves next. -/
def busyWith (inputs : List Input) : State :=
  let s := running 0x30 .sp
  { s with env := { s.env with inputs := inputs } }

/-- Set the port. -/
def withPort (bytes : List Byte) : State := { State.reset with env := { State.reset.env with port := some bytes } }

theorem witness_DecodeOfEncodeIsTheInstruction :
    (Instr.xmit).wf = true ∧ (Instr.ctlRead 0xFF 1).wf = true ∧ (Instr.ctlWrite 0xFF [0xFF]).wf = true := by decide

theorem witness_EncodeOfDecodedTransaction :
    decodeXact [0x03, 0x2C, 0x00] = .ok (.ctlRead 0x2C 1) ∧
      Instr.ctlRead 0x2C 1 ∉ [Instr.ctlReadRxBuffer, .ctlLoadTxBuffer, .ctlRequestToSend, .ctlReadStatus] := by decide

theorem witness_IllegalOpcodeCompletesWithIllegalCmd :
    (∀ b ∈ [(0x00 : Byte), 0x05, 0x0F, 0x14, 0x1F, 0x25, 0x2F, 0x34, 0xFF], decodeOpc b = none) ∧
    decodeCmd 0x34 = .reject (.illegalOpcode 0x34) ∧
    (let s := idleWith [.write 0x00 32 0x34, .engine]
     s.env.port = none ∧ s.eng.fsm = .idle ∧ s.host.status.busy = false) := by decide

theorem witness_CommandWordIgnoresUpperBits :
    (0xFFFFFF01 : Word).toNat % 256 = (0x00000001 : Word).toNat % 256 := by decide

theorem witness_ControlByteRoundTrip : (8 : BitVec 4).toNat ≤ 8 := by decide

theorem witness_IgnoredHeaderBits :
    (let p : PackedId := ⟨0x00, 0x1F, 0x12, 0x34⟩
     let q : PackedId := ⟨0x00, 0x0B, 0x12, 0x34⟩
     p.sidh = q.sidh ∧ p.sidl &&& 0xE8 = q.sidl &&& 0xE8 ∧ p.sidl.getLsbD 3 = true ∧
       p.sidl &&& 0x03 = q.sidl &&& 0x03 ∧ p.eid8 = q.eid8 ∧ p.eid0 = q.eid0) ∧
    (let p : PackedId := ⟨0xFD, 0x17, 0xAA, 0x55⟩
     let q : PackedId := ⟨0xFD, 0x00, 0x00, 0x00⟩
     p.sidh = q.sidh ∧ p.sidl &&& 0xE8 = q.sidl &&& 0xE8 ∧ p.sidl.getLsbD 3 = false) ∧
    (0xB8 : Byte) &&& 0x4F = (0x08 : Byte) &&& 0x4F ∧ decodeControl 0xB8 = some (8, false) := by decide

theorem witness_codec :
    (running 0x01 (.line 0)).at Opc.encid (.line 0) ∧ (running 0x02 (.line 0)).at Opc.decid (.line 0) := by decide

theorem witness_EncctlPacksOrRejects :
    (let s := setFrame (frameOf 8) (running 0x03 (.line 0))
     s.at Opc.encctl (.line 0) ∧ s.host.frame.dataLength.toNat ≤ 8) ∧
    (let s := setFrame (frameOf 9) (running 0x03 (.line 0))
     s.at Opc.encctl (.line 0) ∧ 8 < s.host.frame.dataLength.toNat) := by decide

theorem witness_DecctlUnpacksOrRejects :
    (let s := withPack PackedId.zero 0xF8 (running 0x04 (.line 0))
     s.at Opc.decctl (.line 0) ∧ s.host.packDlc.toNat % 16 ≤ 8) ∧
    (let s := withPack PackedId.zero 0x09 (running 0x04 (.line 0))
     s.at Opc.decctl (.line 0) ∧ 8 < s.host.packDlc.toNat % 16) := by decide

theorem witness_register_access :
    (let s := runningIn 0x10 (.line 0) [0x05] []
     s.at Opc.rdreg (.line 0) ∧ s.env.answers = [0x05]) ∧ (running 0x11 (.line 0)).at Opc.wrreg (.line 0) ∧
    (running 0x12 (.line 0)).at Opc.wrbit (.line 0) ∧ (running 0x13 (.line 0)).at Opc.creset (.line 0) := by decide

theorem witness_WrregWritesOneRegister :
    ∀ a ∈ [(0x00 : Byte), 0x0E, 0x2A, 0xFF],
      let s := withOperands a 0x07 ⟨0, false⟩ (running 0x11 (.line 0))
      s.at Opc.wrreg (.line 0) ∧ s.host.regAddr = a := by decide

/-- The mode commands: an answer that confirms, and one that does not. MNORMAL's three addresses differ. -/
theorem witness_mode_commands :
    (∀ b ∈ [(0x00 : Byte), 0x20, 0x60, 0x80],
      (runningIn 0x20 (.line 0) [b] []).at Opc.mnormal (.line 0) ∧
      (runningIn 0x21 (.line 0) [b] []).at Opc.mrxonly (.line 0) ∧
      (runningIn 0x22 (.line 0) [b] []).at Opc.msleep (.line 0) ∧
      (runningIn 0x23 (.line 0) [b] []).at Opc.awake (.line 0) ∧
      (runningIn 0x20 (.line 0) [b] []).env.answers = [b]) ∧
    Config.default.aIntf ≠ Config.default.aInte ∧ Config.default.aIntf ≠ Config.default.aStat := by decide

theorem witness_SetbaudProgramsSupportedRates_phase (k : BitVec 16) :
    (withBaud k (running 0x24 (.line 0))).at Opc.setbaud (.line 0) ∧
      (withBaud k (running 0x24 (.line 0))).host.baud = k := ⟨rfl, rfl⟩

theorem witness_SetbaudProgramsSupportedRates_rates :
    (100#16).toNat = 100 ∧ (125#16).toNat = 125 ∧ (250#16).toNat = 250 ∧ (500#16).toNat = 500 ∧
      (99#16).toNat ∉ [100, 125, 250, 500] ∧ (501#16).toNat ∉ [100, 125, 250, 500] := by decide

theorem witness_SetbaudProgramsSupportedRates_modes (m : Option CtlMode) :
    (withMode m (withBaud 500 (running 0x24 (.line 0)))).at Opc.setbaud (.line 0) ∧
      (withMode m (withBaud 500 (running 0x24 (.line 0)))).ctl.mode = m := ⟨rfl, rfl⟩

theorem witness_SetbaudProgramsSupportedRates_addresses :
    Config.default.aCnf1 ≠ Config.default.aCtrl ∧ Config.default.aCnf2 ≠ Config.default.aCtrl ∧
    Config.default.aCnf2 ≠ Config.default.aCnf3 ∧ Config.default.aCnf1 ≠ Config.default.aCnf2 ∧
      Config.default.aCnf1 ≠ Config.default.aCnf3 := by decide

theorem witness_WaitLoopStep :
    (∀ w ∈ timedWaiters,
      (runningIn w.opc .sp [0x05] []).at w.opc .sp ∧ (withWait 0 0 0 (runningIn w.opc .st [] [0])).at w.opc .st ∧
      (withWait 0 0 0 (runningIn w.opc .st [] [0])).Inv) ∧
    (runningIn 0x31 .sp [0x01] []).at Opc.sniff .sp := by
  refine ⟨?_, rfl⟩
  intro w hw
  refine ⟨rfl, rfl, inv_running _ _ _ _ _ _ ?_⟩
  revert w
  decide

theorem witness_StartTimeSampledBeforeFirstPoll :
    (∀ w ∈ timedWaiters,
      let ph : Phase := if w.instr = .xmit then .ts else .s0
      (withWait 0 0 0 (runningIn w.opc ph [] [7])).at w.opc ph ∧ (withWait 0 0 0 (runningIn w.opc ph [] [7])).Inv) ∧
    (running 0x33 .tr).at Opc.xmit .tr ∧
    (∃ t, exec .recv (running 0x30 .sp) = .next t) ∧
    (∀ w ∈ timedWaiters, ¬ (running 0x30 .sp).at w.opc (if w.instr = .xmit then .ts else .s0)) := by
  refine ⟨?_, rfl, ⟨_, rfl⟩, by decide⟩
  intro w hw
  refine ⟨rfl, inv_running _ _ _ _ _ _ ?_⟩
  revert w
  decide

theorem witness_TimeoutZeroMakesOnePoll :
    ∀ w ∈ timedWaiters, ∀ f ∈ [(0x00 : Byte), 0xFF],
      (runningIn w.opc .sp [f] []).at w.opc .sp ∧ (runningIn w.opc .sp [f] []).host.timeout = 0 ∧
        (runningIn w.opc .sp [f] []).env.answers = [f] ∧
        f.getLsbD (w.bit Config.default).toNat = decide (f = 0xFF) := by decide

/-- TIMEOUT = 0x20, the start sample at 0xFFFFFFF0: a sample 0x20 ms later and one 0x1F ms later. -/
theorem witness_ExpiryIsByRealTime :
    ∀ w ∈ timedWaiters, ∀ g ∈ [0x10000000F, 0x100000010],
      let s := withWait 0x20 0xFFFFFFF0 0 (runningIn w.opc .st [] [g])
      s.Inv ∧ s.at w.opc .st ∧ s.eng.start.toNat = 0xFFFFFFF0 % 2 ^ s.cfg.clockWidth ∧
        0xFFFFFFF0 ≤ s.env.nextTime ∧ s.env.nextTime - 0xFFFFFFF0 < 2 ^ s.cfg.clockWidth := by
  intro w hw g hg
  refine ⟨inv_running _ _ _ _ _ _ ?_, rfl, ?_⟩
  · revert w
    decide
  · fin_cases hg <;> exact ⟨rfl, by simp [withWait, runningIn, running, Env.nextTime, Env.gap, State.reset, Config.default]⟩

/-- A header that TARGET = 0 matches, with no payload and with eight bytes; at the first poll and at a later one. -/
theorem witness_RecvDeliversTheFrame :
    ∀ r ∈ [(Instr.recv, Opc.recv), (Instr.recvf, Opc.recvf)], ∀ first ∈ [true, false],
    ∀ p ∈ [((0x00 : Byte), ([] : List Byte)), (0x08, [1, 2, 3, 4, 5, 6, 7, 8])],
      let ph : Phase := if first then .s0 else .sp
      let s := runningIn r.2 ph (0x01 :: 0x00 :: 0x00 :: 0x00 :: 0x00 :: p.1 :: p.2) [0]
      s.at r.2 ph ∧ s.env.answers = 0x01 :: 0x00 :: 0x00 :: 0x00 :: 0x00 :: p.1 :: p.2 ∧
        (0x01 : Byte).getLsbD s.cfg.rxfBit.toNat = true ∧ p.1.toNat % 16 ≤ 8 ∧ p.1.toNat % 16 ≤ p.2.length ∧
        (0x00 : Byte).toNat * 8 + (0x00 : Byte).toNat / 32 = s.host.target.toNat := by decide

theorem witness_ReceivedBadDlcIsRejected :
    ∀ r ∈ receivers, ∀ b ∈ [(0x09 : Byte), 0xFF],
      (runningIn r.2 (.sh 4) [b] []).at r.2 (.sh 4) ∧ (runningIn r.2 (.sh 4) [b] []).env.answers = [b] ∧
        8 < b.toNat % 16 := by decide

theorem witness_RecvReportsTimeout : (running 0x30 (.ret .expired)).at Opc.recv (.ret .expired) := by decide

theorem witness_SniffPollsOnce :
    ((runningIn 0x31 .s0 [0xFE] []).at Opc.sniff .s0 ∧ (0xFE : Byte).getLsbD Config.default.rxfBit.toNat = false) ∧
    (∀ p ∈ [((0x00 : Byte), ([] : List Byte)), (0x08, [1, 2, 3, 4, 5, 6, 7, 8]), (0x09, [])],
      let s := runningIn 0x31 .s0 (0x01 :: 0xFD :: 0x00 :: 0x00 :: 0x00 :: p.1 :: p.2) []
      s.at Opc.sniff .s0 ∧ s.env.answers = 0x01 :: 0xFD :: 0x00 :: 0x00 :: 0x00 :: p.1 :: p.2 ∧
        (0x01 : Byte).getLsbD s.cfg.rxfBit.toNat = true ∧
        (p.1.toNat % 16 ≤ 8 ∧ p.1.toNat % 16 ≤ p.2.length ∨ 8 < p.1.toNat % 16)) := by decide

theorem witness_RecvfCountsAndFilters :
    (running 0x32 (.line 0)).at Opc.recvf (.line 0) ∧
    (∀ n ∈ [(0 : BitVec 4), 6, 7],
      (withWait 0 0 n (running 0x32 (.ret .expired))).at Opc.recvf (.ret .expired) ∧
        ((withWait 0 0 n (running 0x32 (.ret .expired))).eng.consec.toNat < 7 ∨
          (withWait 0 0 n (running 0x32 (.ret .expired))).eng.consec.toNat = 7)) ∧
    ((running 0x32 (.ret .frame)).at Opc.recvf (.ret .frame) ∧
      (running 0x32 (.ret .frame)).eng.work.identifier = (running 0x32 (.ret .frame)).host.target) ∧
    (let s := setWork { Frame.zero with identifier := 0x123 } (running 0x32 (.ret .frame))
     s.at Opc.recvf (.ret .frame) ∧ s.eng.work.identifier ≠ s.host.target) ∧
    (running 0x32 (.ret .badDlc)).at Opc.recvf (.ret .badDlc) ∧
    ((running 0x32 .sp).at Opc.recvf .sp ∧ ∃ t, exec .recvf (running 0x32 .sp) = .next t) :=
  ⟨by decide, by decide, by decide, by decide, by decide, by decide, _, rfl⟩

theorem witness_RecvfGivesUpAfterEightTimeouts :
    let s := runningIn 0x32 (.line 0) (List.replicate 8 0xFE) []
    s.at Opc.recvf (.line 0) ∧ s.host.timeout = 0 ∧ 8 ≤ s.env.answers.length ∧
      ∀ f ∈ s.env.answers.take 8, f.getLsbD s.cfg.rxfBit.toNat = false := by decide

/-- Two different non-matching frames, one with no payload and one with eight bytes, TARGET being 0. -/
theorem witness_RecvfRunsOnUnderTraffic :
    let frames : List Arrival :=
      [⟨0x01, 0xFD, 0x00, 0x00, 0x00, 0x40, []⟩, ⟨0xFF, 0x00, 0x20, 0x00, 0x00, 0x08, [1, 2, 3, 4, 5, 6, 7, 8]⟩]
    let s := runningIn 0x32 .s0 (frames.map Arrival.answers).flatten []
    s.at Opc.recvf .s0 ∧ frames ≠ [] ∧
      (∀ a ∈ frames,
        a.flags.getLsbD s.cfg.rxfBit.toNat = true ∧ a.h4.toNat % 16 ≤ 8 ∧ a.data.length = a.h4.toNat % 16 ∧
          a.h0.toNat * 8 + a.h1.toNat / 32 ≠ s.host.target.toNat) ∧
      s.env.answers = (frames.map Arrival.answers).flatten ++ [] := by decide

theorem witness_RecvEndsWhenTheClockAdvances :
    let s := withWait 1 0 0 (runningIn 0x30 .s0 [] [0, 1, 1])
    s.Inv ∧ s.at Opc.recv .s0 ∧ s.env.clockGaps = 0 :: [1, 1] ∧
      (∀ g ∈ [1, 1], 1 ≤ g ∧ g + s.host.timeout.toNat ≤ 2 ^ s.cfg.clockWidth) ∧
      s.host.timeout.toNat + 1 ≤ [1, 1].length :=
  ⟨inv_running _ _ _ _ _ _ (by decide), by decide⟩

theorem witness_XmitSendsTheFrame_later :
    let s := runningIn 0x33 .sp [0x04] []
    s.at Opc.xmit .sp ∧ s.env.answers = [0x04] ∧ (0x04 : Byte).getLsbD s.cfg.txfBit.toNat = true := by decide

theorem witness_XmitSendsTheFrame :
    ∀ n ∈ [(0 : BitVec 4), 8],
      let s := setFrame (frameOf n) (runningIn 0x33 .s0 [0x04] [0])
      s.at Opc.xmit .s0 ∧ s.host.frame.dataLength.toNat ≤ 8 ∧ s.env.answers = [0x04] ∧
        (0x04 : Byte).getLsbD s.cfg.txfBit.toNat = true := by decide

theorem witness_XmitAbortsOnTimeout :
    let s := withWait 0x20 0xFFFFFFF0 0 (runningIn 0x33 .st [] [0x10])
    s.Inv ∧ s.at Opc.xmit .st ∧ s.host.timeout.toNat ≤ elapsedMs s ∧ s.cfg.aTxctrl ≠ s.cfg.aIntf :=
  ⟨inv_running _ _ _ _ _ _ (by decide), by decide⟩

theorem witness_XmitRejectsBadLength :
    ∀ n ∈ [(9 : BitVec 4), 15],
      (setFrame (frameOf n) (running 0x33 .s0)).at Opc.xmit .s0 ∧
        8 < (setFrame (frameOf n) (running 0x33 .s0)).host.frame.dataLength.toNat := by decide

/-- A read that meets the status register and one that does not. -/
theorem witness_ReadTransaction :
    (runningIn 0x30 .sd [0x11] []).env.answers = [0x11] ∧ 1 ≤ [0x11].length ∧
      burstAddr 0x0E 0 = Config.default.aStat.toNat ∧ burstAddr 0x0F 0 ≠ Config.default.aStat.toNat ∧
      (∃ t x, exec (.ctlRead 0x0E 1) (runningIn 0x30 .sd [0x20] []) = .next t ∧ t.env.trace = [x] ∧
        x.received[2]? = some 0x20) := ⟨by decide, by decide, by decide, by decide, _, _, rfl, rfl, rfl⟩

/-- A write that meets the control register and one that does not. -/
theorem witness_WriteTransaction :
    1 ≤ ([0xFF] : List Byte).length ∧ [0xFF].length ≤ 0 + 256 ∧ burstAddr 0x0F 0 = Config.default.aCtrl.toNat ∧
      burstAddr 0x0E 0 ≠ Config.default.aCtrl.toNat := by decide

theorem witness_CommandAcceptance :
    (let s := idleWith [.write 0x00 32 0x30]
     s.env.port = none ∧ s.env.inputs = [.write 0x00 32 0x30] ∧ s.host.status.busy = false) ∧
    (let s := busyWith [.write 0x00 32 0x30]
     s.env.port = none ∧ s.env.inputs = [.write 0x00 32 0x30] ∧ s.host.status.busy = true) := by decide

theorem witness_HostAccessRules :
    (∀ o ∈ [0x00, 0x3C, 0x40, 0xFC],
      (idleWith [.read o 32]).env.port = none ∧ (idleWith [.read o 32]).env.inputs = [.read o 32] ∧
        o % 4 = 0 ∧ o < 256) ∧
    (∀ p ∈ [(0x02, 32), (0x100, 32), (0x00, 8)],
      (idleWith [.read p.1 p.2]).env.inputs = [.read p.1 p.2] ∧
        ¬ (p.2 = 32 ∧ p.1 % 4 = 0 ∧ p.1 < 256)) ∧
    (∀ o ∈ [0x04, 0x20, 0x40, 0xFC],
      (idleWith [.write o 32 1]).env.inputs = [.write o 32 1] ∧ (o % 4 = 0 ∧ o < 256) ∧
        (0x40 ≤ o ∨ o = 0x04 ∨ o = 0x20)) ∧
    ((idleWith [.write 0x01 32 1]).env.inputs = [.write 0x01 32 1] ∧ ¬ (0x01 % 4 = 0)) := by decide

theorem witness_HostWritesIgnoredWhileBusy :
    let s := busyWith [.write 0xFC 32 1]
    s.env.port = none ∧ s.env.inputs = [.write 0xFC 32 1] ∧ 0xFC % 4 = 0 ∧ 0xFC < 256 ∧
      s.host.status.busy = true := by decide

theorem witness_HostWriteReadsBack :
    ∀ r ∈ [HostReg.timeout, .target, .baud, .regaddr, .regdata, .regbit, .frameId, .frameEid, .frameCtl, .frameData0,
        .frameData1, .pack, .packdlc],
      (idleWith [.write r.offset 32 0xFFFFFFFF]).cfg.wf = true ∧
        (idleWith [.write r.offset 32 0xFFFFFFFF]).env.port = none ∧
        (idleWith [.write r.offset 32 0xFFFFFFFF]).host.status.busy = false := by decide

theorem witness_BlockResetEffect :
    ((idleWith [.blockReset]).env.port = none ∧ (idleWith [.blockReset]).eng.fsm = .idle) ∧
    ((busyWith [.blockReset]).env.port = none ∧ (busyWith [.blockReset]).env.inputs = [.blockReset]) := by decide

theorem witness_WaitPollsStatus :
    (idleWith [.wait]).env.port = none ∧ (idleWith [.wait]).env.inputs = [.wait] ∧
      (busyWith [.wait]).env.port = none ∧ (busyWith [.wait]).env.inputs = [.wait] := by decide

theorem witness_StepRunsTheDecodedInstruction :
    ((running 0x33 .s0).env.port = none ∧ (running 0x33 .s0).env.inputs = [] ∧ (running 0x33 .s0).at 0x33 .s0 ∧
      decodeOpc 0x33 = some .xmit) ∧
    ((busyWith [.engine]).env.port = none ∧ (busyWith [.engine]).env.inputs = [.engine] ∧
      (busyWith [.engine]).at 0x30 .sp ∧ decodeOpc 0x30 = some .recv) ∧
    (let s := idleWith [.write 0x00 32 0x33]
     s.env.port = none ∧ s.env.inputs = [.write 0x00 32 0x33] ∧ s.eng.fsm = .idle ∧ s.host.status.busy = false ∧
       decodeCmd 0x33 = .ok .xmit) ∧
    ((withPort [0x03, 0x2C, 0x00]).env.port = some [0x03, 0x2C, 0x00] ∧
      decodeXact [0x03, 0x2C, 0x00] = .ok (.ctlRead 0x2C 1)) := by decide

theorem witness_EveryPhaseOfACommandAnswers :
    decodeOpc 0x32 = some .recvf ∧ hasPhase .recvf (.ret .frame) = true ∧
      (running 0x32 (.ret .frame)).at 0x32 (.ret .frame) := by decide

theorem witness_RunningStepsWriteNoHostRegister :
    ∃ t, exec .recv (running 0x30 .sd) = .next t ∧ (running 0x30 .sd).eng.fsm.running = true ∧
      t.eng.fsm.running = true := ⟨_, rfl, rfl, rfl⟩

theorem witness_CompletionOutcome :
    (∃ t, exec .encid (running 0x01 (.line 0)) = .next t ∧ (running 0x01 (.line 0)).eng.fsm.running = true ∧
      t.eng.fsm.running = false ∧ t.host.status = Status.succeeded) ∧
    (∃ t, exec .recv (running 0x30 (.ret .expired)) = .next t ∧
      (running 0x30 (.ret .expired)).eng.fsm.running = true ∧ t.eng.fsm.running = false ∧
      t.host.status = Status.failed .rxTimeout) := ⟨⟨_, rfl, rfl, rfl, rfl⟩, _, rfl, rfl, rfl, rfl⟩

theorem witness_EachCommandWritesOnlyItsResults :
    ∃ t, exec .encid (running 0x01 (.line 0)) = .next t ∧ (running 0x01 (.line 0)).eng.fsm.running = true :=
  ⟨_, rfl, rfl⟩

theorem witness_CommandsKeepDataLengthBound :
    let s := withWait 0 0 0 (runningIn 0x30 (.ret .frame) [] [])
    s.Inv ∧ s.eng.fsm.running = true ∧ ∃ t, exec .recv s = .next t :=
  ⟨inv_running _ _ _ _ _ _ (by decide), rfl, _, rfl⟩

theorem witness_ResetTransaction :
    (idleWith [.controllerPowerOn]).env.port = none ∧
      (idleWith [.controllerPowerOn]).env.inputs = [.controllerPowerOn] := by decide

/-- The step in which CRESET resets the controller meets the hypotheses of the statements about every step. -/
theorem witness_every_step :
    ∃ t, step (withMode none (running 0x13 (.line 0))) = .next t ∧ t.ctl.mode = some .configuration := ⟨_, rfl, rfl⟩

/-- A mode request, a confirmation read, and a completion, for the clauses on the record of the mode. -/
theorem witness_OnlyResetEntersConfiguration :
    (∃ t x, step (running 0x20 (.line 0)) = .next t ∧ t.env.trace = x :: (running 0x20 (.line 0)).env.trace ∧
      x.sent = [0x02, Config.default.aCtrl, 0x00]) ∧
    (∃ t x d0 d1, step (runningIn 0x20 (.line 3) [0x60] []) = .next t ∧
      t.env.trace = x :: (running 0x20 (.line 3)).env.trace ∧ x.sent = [0x03, Config.default.aStat, 0x00] ∧
      x.received = [d0, d1, 0x60]) ∧
    (∃ t, step (running 0x20 (.line 4)) = .next t ∧ t.env.trace = (running 0x20 (.line 4)).env.trace ∧
      (running 0x20 (.line 4)).env.inputs = []) :=
  ⟨⟨_, _, rfl, rfl, rfl⟩, ⟨_, _, _, _, rfl, rfl, rfl, rfl⟩, _, rfl, rfl, rfl⟩

/-- R150, R43: no mode is known after a request, and the mode that the confirmation read reports after it. -/
theorem test_mode_record :
    seen (fun t => t.ctl.mode) (step (running 0x20 (.line 0))) = some none ∧
      seen (fun t => t.ctl.mode) (step (runningIn 0x21 (.line 1) [0x60] [])) = some (some .receiveOnly) := by decide

theorem witness_EveryStepKeepsTheInvariant :
    let s := withWait 0 0 0 (runningIn 0x30 .sp [0x01] [])
    s.Inv ∧ ∃ t, step s = .next t := ⟨inv_running _ _ _ _ _ _ (by decide), _, rfl⟩

/-- A good state whose host makes an access outside the interface is refused. -/
theorem witness_GoodStatesNeverFault :
    (idleWith [.read 0x02 32]).Inv ∧ (idleWith [.read 0x02 32]).env.port = none ∧
      step (idleWith [.read 0x02 32]) = .refused .hostAccessOutsideInterface := ⟨inv_idle _, rfl, rfl⟩

end Sys2Proof.Machine.Tests
end

section
/-!
SUPPORT. The rows of the opcode table as commands, and the statements about every command: a step runs the decoded
instruction, and each phase answers.
-/
namespace Sys2Proof.Machine

/-! ### A row of the opcode table as a command -/

/-- One step of a RECV in a base receive (R180). -/
theorem exec_recv {s : State} {ph : Phase} (hs : s.at Opc.recv ph) (hph : receivePhase .timed ph = true) :
    exec .recv s = .next (receiveStep Opc.recv .timed recvReturn s ph) :=
  (command_run hs).trans (receive_run s hph)

/-- One step of a SNIFF in its base receive (R182). -/
theorem exec_sniff {s : State} {ph : Phase} (hs : s.at Opc.sniff ph) (hph : receivePhase .once ph = true) :
    exec .sniff s = .next (receiveStep Opc.sniff .once sniffReturn s ph) :=
  (command_run hs).trans (receive_run s hph)

/-- One step of a RECVF in a base receive (R190): past its first line it is a receiver like the others (R202). -/
theorem exec_recvf {s : State} {ph : Phase} (hs : s.at Opc.recvf ph) (hph : receivePhase .timed ph = true) :
    exec .recvf s = .next (receiveStep Opc.recvf .timed recvfReturn s ph) := by
  rw [exec, execRecvf, command_run hs]
  split
  · cases hph
  · exact receive_run s hph

/-- The first step of a RECVF: `E.consec <- 0` (R190). -/
theorem exec_recvf_line {s : State} (hs : s.at Opc.recvf (.line 0)) :
    exec .recvf s = .next (goto Opc.recvf .s0 (setConsec 0 s)) := by
  rw [exec, execRecvf]
  exact command_run hs

/-- An instruction is the command of an opcode: an idle engine accepts it (R212), and it answers in each of its phases
(R35). -/
structure IsCommand (opc : Byte) (i : Instr) : Prop where
  accepts : ∀ s, s.eng.fsm = .idle → exec i s = .next (accept (cmdWord opc) s)
  answers : ∀ s ph, s.at opc ph → hasPhase i ph = true → ∃ t, exec i s = .next t

/-- A procedure without labels is a command: it answers at its transactions and at its completion. -/
theorem isCommand_straightLine {opc : Byte} {i : Instr} {ops : List (State → State)} {complete : State → State}
    (hexec : ∀ s, exec i s = command opc (straightLine opc ops complete) s)
    (hphase : ∀ ph, hasPhase i ph = linePhase ops.length ph) : IsCommand opc i where
  accepts s hs := (hexec s).trans (command_idle hs)
  answers s ph hs hph := by
    rw [hexec, command_run hs]
    exact straightLine_answers s (hphase ph ▸ hph)

/-- SETBAUD answers at each of its lines, whether the rate is supported or not (R158). -/
theorem isCommand_setbaud : IsCommand Opc.setbaud .setbaud where
  accepts s hs := by rw [exec, execSetbaud, command_idle hs]
  answers s ph hs hph := by
    rw [exec, execSetbaud, command_run hs]
    cases ph <;> simp only [hasPhase, linePhase, Bool.false_eq_true] at hph
    cases timingOf s.cfg s.host.baud with
    | none => exact ⟨_, rfl⟩
    | some timing => exact straightLine_answers s hph

/-- RECVF answers at its first line and in each phase of its base receive (R190). -/
theorem isCommand_recvf : IsCommand Opc.recvf .recvf where
  accepts s hs := by rw [exec, execRecvf, command_idle hs]
  answers s ph hs hph := by
    by_cases hl : ph = .line 0
    · exact ⟨_, exec_recvf_line (hl ▸ hs)⟩
    · have hrx : receivePhase .timed ph = true := by
        cases ph <;> simp_all [hasPhase, linePhase]
      exact ⟨_, exec_recvf hs hrx⟩

/-- Every row of the opcode table is a command (R81). -/
theorem isCommand_of_decodeOpc {opc : Byte} {i : Instr} (hi : decodeOpc opc = some i) : IsCommand opc i := by
  have hrow := decodeOpc_mem hi
  simp only [cmdTable, List.mem_cons, Prod.mk.injEq, List.not_mem_nil, or_false] at hrow
  rcases hrow with ⟨rfl, rfl⟩ | ⟨rfl, rfl⟩ | ⟨rfl, rfl⟩ | ⟨rfl, rfl⟩ | ⟨rfl, rfl⟩ | ⟨rfl, rfl⟩ | ⟨rfl, rfl⟩ |
    ⟨rfl, rfl⟩ | ⟨rfl, rfl⟩ | ⟨rfl, rfl⟩ | ⟨rfl, rfl⟩ | ⟨rfl, rfl⟩ | ⟨rfl, rfl⟩ | ⟨rfl, rfl⟩ | ⟨rfl, rfl⟩ |
    ⟨rfl, rfl⟩ | ⟨rfl, rfl⟩
  iterate 12 exact isCommand_straightLine (fun _ => rfl) (fun _ => rfl)
  · exact isCommand_setbaud
  · exact ⟨fun _ hs => command_idle hs, fun _ _ hs hph => ⟨_, exec_recv hs hph⟩⟩
  · exact ⟨fun _ hs => command_idle hs, fun _ _ hs hph => ⟨_, exec_sniff hs hph⟩⟩
  · exact isCommand_recvf
  · exact ⟨fun _ hs => command_idle hs, fun _ _ hs hph => ⟨_, exec_xmit hs hph⟩⟩

/-- Settles O50: every row of the opcode table is a command, and a command answers in each of its phases. -/
theorem everyPhaseOfACommandAnswers : Obligations.EveryPhaseOfACommandAnswers :=
  fun _ _ ph s hi hph hs => (isCommand_of_decodeOpc hi).answers s ph hs hph

/-! ### What a step runs -/

/-- A transaction on the port goes first. -/
theorem step_of_port {s : State} {bytes : List Byte} (hp : s.env.port = some bytes) :
    step s = portStep bytes (clearPort s) := by simp only [step, hp]

/-- With no input left the engine moves (R72). -/
theorem step_of_no_input {s : State} (hp : s.env.port = none) (hin : s.env.inputs = []) : step s = engineStep s := by
  simp only [step, hp, hin]

/-- The head of the inputs says who moves (R72). -/
theorem step_of_input {s : State} {i : Input} {rest : List Input} (hp : s.env.port = none)
    (hin : s.env.inputs = i :: rest) : step s = inputStep i (setInputs rest s) := by simp only [step, hp, hin]

/-- The engine's step of a running command is the decoded instruction (R17, R35). -/
theorem engineStep_run {opc : Byte} {ph : Phase} {i : Instr} {s : State} (hs : s.at opc ph)
    (hi : decodeOpc opc = some i) : engineStep s = exec i s := by
  simp only [engineStep, show s.eng.fsm = .run opc ph from hs, hi]

/-- A write of CMD to a block that is not BUSY is the acceptance of the word (R212). -/
theorem hostWrite_cmd (w : Word) {s : State} (hb : s.host.status.busy = false) :
    hostWrite 0x00 32 w s = .next (accept w s) := by
  simp only [hostWrite, hb]
  rfl

/-- A command word carries its opcode (R80). -/
@[simp] theorem opcOfWord_cmdWord (opc : Byte) : opcOfWord (cmdWord opc) = opc := by
  apply BitVec.eq_of_toNat_eq
  simp only [opcOfWord, cmdWord, BitVec.extractLsb'_toNat, BitVec.toNat_setWidth]
  omega

/-- Acceptance sees only the opcode of the word (R80): the word that carries the opcode alone is accepted alike. -/
theorem accept_cmdWord_opcOfWord (w : Word) (s : State) : accept (cmdWord (opcOfWord w)) s = accept w s := by
  simp only [accept, opcOfWord_cmdWord]

/-- A word that decodes names its command by its opcode (R80). -/
theorem decodeOpc_of_decodeCmd {w : Word} {i : Instr} (h : decodeCmd w = .ok i) : decodeOpc (opcOfWord w) = some i := by
  unfold decodeCmd at h
  split at h
  · next j hj => rw [hj, Decoded.ok.inj h]
  · cases h

/-- A write of CMD to an idle block runs the command that the word decodes to: its acceptance (R212). -/
theorem hostWrite_cmd_exec {w : Word} {i : Instr} {s : State} (hs : s.eng.fsm = .idle)
    (hb : s.host.status.busy = false) (hw : decodeCmd w = .ok i) : hostWrite 0x00 32 w s = exec i s := by
  rw [hostWrite_cmd w hb, (isCommand_of_decodeOpc (decodeOpc_of_decodeCmd hw)).accepts s hs, accept_cmdWord_opcOfWord]

/-- The step of a transaction on the port is the decoded instruction (R83). -/
theorem portStep_ok {bytes : List Byte} {i : Instr} (s : State) (h : decodeXact bytes = .ok i) :
    portStep bytes s = exec i s := by simp only [portStep, h]

/-- Settles O49: the four ways in which a step comes to an instruction. -/
theorem stepRunsTheDecodedInstruction : Obligations.StepRunsTheDecodedInstruction := by
  intro s i
  refine ⟨fun opc ph hp hin hs hi => ?engine, fun opc ph rest hp hin hs hi => ?engineInput,
    fun w rest hp hin hs hb hw => ?cmdWrite, fun bytes hp hx => ?port⟩
  case engine => exact (step_of_no_input hp hin).trans (engineStep_run hs hi)
  case engineInput => exact (step_of_input hp hin).trans (engineStep_run (s := setInputs rest s) hs hi)
  case cmdWrite => exact (step_of_input hp hin).trans (hostWrite_cmd_exec (s := setInputs rest s) hs hb hw)
  case port => exact (step_of_port hp).trans (portStep_ok (clearPort s) hx)

end Sys2Proof.Machine
end

section
/-!
SUPPORT. A run of transactions as one relation between states, the poll and the clear of a flag, and XMIT on a flag that is
found set: it sends its frame.
-/
namespace Sys2Proof.Machine

/-! ### Runs of transactions -/

theorem sameRegs.refl (touched : Nat → Prop) (s : State) : sameRegs touched s s := fun _ _ => rfl

theorem sameRegs.trans {touched : Nat → Prop} {s t u : State} (h : sameRegs touched s t) (h' : sameRegs touched t u) :
    sameRegs touched s u := fun x hx => (h' x hx).trans (h x hx)

/-- `t` is `s` after transactions that sent `sent` (newest first), took `used` bytes of the outside world's answers, and
recorded registers at addresses of `touched` only. They write no host register, and they do not move the clock. -/
structure Transacts (touched : Nat → Prop) (sent : List (List Byte)) (used : Nat) (s t : State) : Prop where
  host : t.host = s.host
  cfg : t.cfg = s.cfg
  env : ∃ draws trace,
    t.env = { s.env with answers := s.env.answers.drop used, draws := draws, trace := trace }
  sent : t.sent = sent ++ s.sent
  regs : sameRegs touched s t

namespace Transacts

variable {touched : Nat → Prop} {s t u : State}

/-- A change of the engine's latches alone is no transaction. -/
theorem of_eng (e : Engine) : Transacts touched [] 0 s { s with eng := e } :=
  ⟨rfl, rfl, ⟨_, _, rfl⟩, rfl, sameRegs.refl _ s⟩

theorem trans {l l' : List (List Byte)} {n n' : Nat} (h : Transacts touched l n s t)
    (h' : Transacts touched l' n' t u) : Transacts touched (l' ++ l) (n + n') s u where
  host := h'.host.trans h.host
  cfg := h'.cfg.trans h.cfg
  env := by
    obtain ⟨d, tr, he⟩ := h.env
    obtain ⟨d', tr', he'⟩ := h'.env
    exact ⟨d', tr', by rw [he', he, List.drop_drop]⟩
  sent := by rw [h'.sent, h.sent, List.append_assoc]
  regs := h.regs.trans h'.regs

/-- A read of `n` registers sends the read layout and takes `n` answers (R66). -/
theorem memRead {a : Byte} {n : Nat} (s : State) (ha : ∀ k, k < n → touched (burstAddr a k)) :
    Transacts touched [readBytes a n] n s (memRead a n s) where
  host := rfl
  cfg := rfl
  env := ⟨_, _, rfl⟩
  sent := rfl
  regs x hx :=
    burst_read_other _ (observe_cr _) _ _ _ x a.isLt fun k hk he => hx (he ▸ ha k (by simpa using hk))

/-- A write sends the write layout (R67). -/
theorem memWrite {a : Byte} {v : List Byte} (s : State) (ha : ∀ k, k < v.length → touched (burstAddr a k)) :
    Transacts touched [writeBytes a v] 0 s (memWrite a v s) where
  host := rfl
  cfg := rfl
  env := ⟨_, _, rfl⟩
  sent := rfl
  regs x hx := burst_read_other _ (store_cr _) _ _ _ x a.isLt fun k hk he => hx (he ▸ ha k hk)

/-- A write of one bit sends the bit-modify layout (R68, R133). -/
theorem writeBit {a : Byte} {idx : BitVec 3} {value : Bool} (s : State) (ha : touched a.toNat) :
    Transacts touched [bitmodBytes a (bitMask idx) (if value then bitMask idx else 0)] 0 s (writeBit a idx value s) where
  host := rfl
  cfg := rfl
  env := ⟨_, _, rfl⟩
  sent := rfl
  regs _ hx := Memory.read_write_other _ _ fun he => hx (he ▸ ha)

end Transacts

/-- The one address of a one-register transaction. -/
theorem burstAddr_of_lt_one {a : Byte} {k : Nat} (hk : k < 1) : burstAddr a k = a.toNat := by
  obtain rfl : k = 0 := by omega
  exact Nat.mod_eq_of_lt a.isLt

/-- A one-register read touches its register (R66). -/
theorem Transacts.readOne {touched : Nat → Prop} {a : Byte} (s : State) (ha : touched a.toNat) :
    Transacts touched [readBytes a 1] 1 s (Machine.memRead a 1 s) :=
  .memRead s fun _ hk => burstAddr_of_lt_one hk ▸ ha

/-- A one-register write touches its register (R67). -/
theorem Transacts.writeOne {touched : Nat → Prop} {a b : Byte} (s : State) (ha : touched a.toNat) :
    Transacts touched [writeBytes a [b]] 0 s (Machine.memWrite a [b] s) :=
  .memWrite s fun _ hk => burstAddr_of_lt_one hk ▸ ha

/-- The clock sample after transactions takes one gap, and the real time is that of `s` and the gap (R33, R173). -/
theorem Transacts.sampleStart_env {touched : Nat → Prop} {l : List (List Byte)} {n : Nat} {s t : State}
    (h : Transacts touched l n s t) :
    ∃ gap draws trace,
      (sampleStart t).env =
        { s.env with
          answers := s.env.answers.drop n, clockGaps := s.env.clockGaps.drop 1, now := s.env.now + gap
          draws := draws, trace := trace } ∧
      ∀ g gaps, s.env.clockGaps = g :: gaps → gap = g := by
  obtain ⟨d, tr, henv⟩ := h.env
  refine ⟨t.env.gap, t.env.draws + 1, t.env.trace, ?_, fun g gaps hg => ?_⟩
  · rw [Machine.sampleStart_env, sampleClock_env, Env.nextTime, henv]
  · rw [henv, Env.gap, hg]
    rfl

/-! ### Phases and bits -/

/-- An engine at a phase is unmoved by going there. -/
theorem goto_eq_self {opc : Byte} {ph : Phase} {s : State} (h : s.at opc ph) : goto opc ph s = s := by
  simp only [goto, ← show s.eng.fsm = .run opc ph from h]

/-- A bit that a bit-modify writes to 0 reads 0, whatever the controller gives the other bits (R68). -/
theorem mergeBits_clears (held : Byte) (idx : BitVec 3) :
    (mergeBits held (bitMask idx) 0).getLsbD idx.toNat = false := by
  have hmask : (bitMask idx).getLsbD idx.toNat = true := by revert idx; decide
  simp [mergeBits, hmask]

/-! ### The poll and the clear of a flag -/

/-- A poll whose flag is set in the next answer finds it (R171). -/
theorem pollBit_of_answer {s : State} {bit : BitVec 3} {f : Byte} {rest : List Byte} (ha : s.env.answers = f :: rest)
    (hf : f.getLsbD bit.toNat = true) : pollBit bit s = true := by
  rw [pollBit, readByte_cons s f rest ha]
  exact hf

/-- The poll and the clear of a flag are two transactions at A_INTF (R171, R200). -/
theorem transacts_poll_clear {touched : Nat → Prop} (bit : BitVec 3) (s : State) (ha : touched s.cfg.aIntf.toNat) :
    Transacts touched [bitmodBytes s.cfg.aIntf (bitMask bit) 0, readBytes s.cfg.aIntf 1] 1 s
      (clearFlag bit (poll s)) :=
  (Transacts.readOne s ha).trans (.writeBit (idx := bit) (value := false) (poll s) ha)

/-- The register of the flags after the clear of one: that flag is 0 (R200). -/
theorem clearFlag_clears (bit : BitVec 3) (s : State) :
    ∃ b, (clearFlag bit s).ctl.cr.read s.cfg.aIntf.toNat = some b ∧ b.getLsbD bit.toNat = false :=
  ⟨_, Memory.read_write_same _ _ _, mergeBits_clears _ _⟩

/-! ### XMIT -/

/-- The five header writes TH0 to TH4 (R196). -/
def writeHeaders (s : State) : State :=
  writeHeader 4 (writeHeader 3 (writeHeader 2 (writeHeader 1 (writeHeader 0 s))))

/-- The buffer of XMIT loaded and its transmission requested: TH0 to TR (R196). -/
def xmitLoad (s : State) : State := transmitRequest true (writePayload (writeHeaders s))

/-- The payload write keeps the engine, the payload skipped or not (R194). -/
theorem writePayload_eng (s : State) : (writePayload s).eng = s.eng := by
  unfold writePayload
  dsimp only
  split <;> rfl

/-- The payload write does not look at the engine's phase. -/
theorem writePayload_goto (opc : Byte) (ph : Phase) (s : State) :
    writePayload (goto opc ph s) = goto opc ph (writePayload s) := by
  by_cases hn : s.host.frame.dataLength.toNat = 0
  · simp only [writePayload, goto_host, hn, if_true]
  · simp only [writePayload, goto_host, hn, if_false]
    rfl

/-- The latches after the load are those before it. -/
theorem xmitLoad_eng (s : State) : (xmitLoad s).eng = s.eng := writePayload_eng (writeHeaders s)

/-- One step of an XMIT at a phase. -/
theorem execs_xmit_goto {ph : Phase} (hph : xmitPhase ph = true) (k : Nat) (s : State) :
    execs .xmit (k + 1) (goto Opc.xmit ph s) = execs .xmit k (xmitStep (goto Opc.xmit ph s) ph) :=
  execs_succ (exec_xmit rfl hph)

/-- TH0 to TH4 take five steps. -/
theorem execs_xmit_writeHeaders (k : Nat) (s : State) :
    execs .xmit (k + 5) (goto Opc.xmit (.th 0) s) = execs .xmit k (goto Opc.xmit .td (writeHeaders s)) :=
  calc execs .xmit (k + 5) (goto Opc.xmit (.th 0) s)
    _ = execs .xmit (k + 4) (goto Opc.xmit (.th 1) (writeHeader 0 s)) := execs_xmit_goto rfl _ _
    _ = execs .xmit (k + 3) (goto Opc.xmit (.th 2) (writeHeader 1 (writeHeader 0 s))) := execs_xmit_goto rfl _ _
    _ = execs .xmit (k + 2) (goto Opc.xmit (.th 3) (writeHeader 2 (writeHeader 1 (writeHeader 0 s)))) :=
      execs_xmit_goto rfl _ _
    _ = execs .xmit (k + 1) (goto Opc.xmit (.th 4) (writeHeader 3 (writeHeader 2 (writeHeader 1 (writeHeader 0 s))))) :=
      execs_xmit_goto rfl _ _
    _ = execs .xmit k (goto Opc.xmit .td (writeHeaders s)) := execs_xmit_goto rfl _ _

/-- S0 lets a frame pass whose data length is at most 8 (R195). -/
theorem xmitCheck_good {s : State} (h : s.host.frame.dataLength.toNat ≤ 8) :
    xmitCheck s = goto Opc.xmit (.th 0) s := by
  have hbad : s.host.frame.badLength = false := by
    simpa [Frame.badLength, BitVec.le_def] using h
  simp only [xmitCheck, hbad, Bool.false_eq_true, if_false]

/-- From S0 to the first poll XMIT takes nine steps: the load, and the clock sample after it (R173, R196). -/
theorem execs_xmit_load {s : State} (k : Nat) (hs : s.at Opc.xmit .s0) (hn : s.host.frame.dataLength.toNat ≤ 8) :
    execs .xmit (k + 9) s = execs .xmit k (goto Opc.xmit .sp (sampleStart (xmitLoad s))) :=
  calc execs .xmit (k + 9) s
    _ = execs .xmit (k + 8) (goto Opc.xmit (.th 0) s) :=
      execs_succ ((exec_xmit hs rfl).trans (congrArg _ (xmitCheck_good hn)))
    _ = execs .xmit (k + 3) (goto Opc.xmit .td (writeHeaders s)) := execs_xmit_writeHeaders (k + 3) s
    _ = execs .xmit (k + 2) (goto Opc.xmit .tr (writePayload (goto Opc.xmit .td (writeHeaders s)))) :=
      execs_xmit_goto rfl _ _
    _ = execs .xmit (k + 2) (goto Opc.xmit .tr (writePayload (writeHeaders s))) := by rw [writePayload_goto]; rfl
    _ = execs .xmit (k + 1) (goto Opc.xmit .ts (xmitLoad s)) := execs_xmit_goto rfl _ _
    _ = execs .xmit k (goto Opc.xmit .sp (sampleStart (xmitLoad s))) := execs_xmit_goto rfl _ _

/-- From a poll that finds TXF set XMIT takes three steps: the poll, the clear and its success (R198, R200). -/
theorem execs_xmit_set {s : State} (hs : s.at Opc.xmit .sp) (hbit : pollBit s.cfg.txfBit s = true) :
    execs .xmit 3 s = .next (finish (clearFlag s.cfg.txfBit (poll s))) :=
  calc execs .xmit 3 s
    _ = execs .xmit 2 (goto Opc.xmit (.tc .set) (poll s)) :=
      execs_succ ((exec_xmit hs rfl).trans (congrArg _ (if_pos hbit)))
    _ = execs .xmit 1 (goto Opc.xmit (.fin .set) (clearFlag s.cfg.txfBit (poll s))) := execs_xmit_goto rfl _ _
    _ = .next (finish (clearFlag s.cfg.txfBit (poll s))) := execs_xmit_goto rfl _ _

/-- The registers that an XMIT writes before its first poll (R196). -/
def xmitTouched (s : State) (x : Nat) : Prop :=
  x = s.cfg.aIntf.toNat ∨ x = s.cfg.aTxctrl.toNat ∨ (∃ k, x = (txHeaderAddr s.cfg k).toNat) ∨
    ∃ k, k < s.host.frame.dataLength.toNat ∧ x = burstAddr s.cfg.aTxd0 k

/-- What the payload write sends: nothing when the data length is 0 (R194). -/
def payloadSent (s : State) : List (List Byte) :=
  if s.host.frame.dataLength.toNat = 0 then []
  else [writeBytes s.cfg.aTxd0 (s.host.frame.data.take s.host.frame.dataLength.toNat)]

/-- The payload write is one burst at A_TXD0, or nothing (R194). -/
theorem transacts_writePayload {touched : Nat → Prop} (s : State)
    (ha : ∀ k, k < s.host.frame.dataLength.toNat → touched (burstAddr s.cfg.aTxd0 k)) :
    Transacts touched (payloadSent s) 0 s (writePayload s) := by
  unfold writePayload payloadSent
  dsimp only
  split
  · exact .of_eng s.eng
  · exact .memWrite s fun k hk => ha k (by simpa [Payload.take] using hk)

/-- The load sends the five header bytes, the payload and the transmit request, in this order (R196). -/
theorem transacts_xmitLoad (s : State) :
    Transacts (xmitTouched s)
      (bitmodBytes s.cfg.aTxctrl (bitMask s.cfg.txreqBit) (bitMask s.cfg.txreqBit) :: payloadSent s ++
        [writeBytes s.cfg.aTxdlc [encodeControl s.host.frame.dataLength s.host.frame.isRemoteRequest],
          writeBytes s.cfg.aTxeid0 [s.host.frame.packedId.eid0], writeBytes s.cfg.aTxeid8 [s.host.frame.packedId.eid8],
          writeBytes s.cfg.aTxsidl [s.host.frame.packedId.sidl], writeBytes s.cfg.aTxsidh [s.host.frame.packedId.sidh]])
      0 s (xmitLoad s) := by
  have header (k : Fin 5) (u : State) (hhost : u.host = s.host) (hcfg : u.cfg = s.cfg) :
      Transacts (xmitTouched s) [writeBytes (txHeaderAddr s.cfg k) [s.host.frame.header.get k]] 0 u
        (writeHeader k u) := by
    rw [writeHeader, hhost, hcfg]
    exact .writeOne u (.inr (.inr (.inl ⟨k, rfl⟩)))
  have header0 := header 0 s rfl rfl
  have header1 := header0.trans (header 1 _ header0.host header0.cfg)
  have header2 := header1.trans (header 2 _ header1.host header1.cfg)
  have header3 := header2.trans (header 3 _ header2.host header2.cfg)
  have headers := header3.trans (header 4 _ header3.host header3.cfg)
  have payload : Transacts (xmitTouched s) (payloadSent s) 0 (writeHeaders s) (writePayload (writeHeaders s)) :=
    transacts_writePayload (writeHeaders s) fun k hk => .inr (.inr (.inr ⟨k, hk, rfl⟩))
  have request : Transacts (xmitTouched s)
      [bitmodBytes s.cfg.aTxctrl (bitMask s.cfg.txreqBit) (bitMask s.cfg.txreqBit)] 0
      (writePayload (writeHeaders s)) (xmitLoad s) := by
    have := Transacts.writeBit (touched := xmitTouched s) (a := s.cfg.aTxctrl) (idx := s.cfg.txreqBit) (value := true)
      (writePayload (writeHeaders s)) (.inr (.inl rfl))
    rwa [xmitLoad, transmitRequest, payload.cfg]
  exact (headers.trans payload).trans request

/-- XMIT's load and poll, from S0 to a poll that finds TXF set, with the clock sample between them. -/
theorem execs_xmit_first {s : State} {f : Byte} {rest : List Byte} (hs : s.at Opc.xmit .s0)
    (hn : s.host.frame.dataLength.toNat ≤ 8) (ha : s.env.answers = f :: rest)
    (hf : f.getLsbD s.cfg.txfBit.toNat = true) :
    execs .xmit 12 s = .next (finish (clearFlag s.cfg.txfBit (poll (sampleStart (xmitLoad s))))) := by
  have hload := transacts_xmitLoad s
  obtain ⟨_, _, _, henv, -⟩ := hload.sampleStart_env
  have hcfg : (goto Opc.xmit .sp (sampleStart (xmitLoad s))).cfg = s.cfg := hload.cfg
  have hbit : pollBit s.cfg.txfBit (goto Opc.xmit .sp (sampleStart (xmitLoad s))) = true :=
    pollBit_of_answer (by rw [goto_env, henv]; exact ha) hf
  rw [execs_xmit_load 3 hs hn, execs_xmit_set rfl (by rw [hcfg]; exact hbit), hcfg]
  rfl

/-- Settles O34: the load and its clock sample lead to the first poll, and a poll that finds TXF set leads to success. -/
theorem xmitSendsTheFrame : Obligations.XmitSendsTheFrame := by
  refine ⟨fun s f rest hs hn ha hf => ?start, fun s f rest hs ha hf => ?later⟩
  case start =>
    have hload := transacts_xmitLoad s
    obtain ⟨gap, d, tr, henv, hgap⟩ := hload.sampleStart_env
    have hcfg : (sampleStart (xmitLoad s)).cfg = s.cfg := hload.cfg
    have hpolled := transacts_poll_clear (touched := xmitTouched s) s.cfg.txfBit (sampleStart (xmitLoad s))
      (.inl (congrArg (·.aIntf.toNat) hcfg))
    obtain ⟨d', tr', henv'⟩ := hpolled.env
    rw [henv] at henv'
    refine ⟨_, execs_xmit_first hs hn ha hf, ?host, ?eng, hpolled.cfg.trans hcfg, ?sent, ?env, ?now, ?gap,
      hload.regs.trans hpolled.regs⟩
    case host => rw [finish_host, hpolled.host, sampleStart_host, hload.host]; rfl
    case eng =>
      have hstart : (sampleStart (xmitLoad s)).eng = { s.eng with start := clockValue (xmitLoad s) } := by
        rw [sampleStart_eng, xmitLoad_eng]
      exact congrArg (fun e : Engine => { e with fsm := .idle }) hstart
    case sent =>
      have hsent := hpolled.sent
      rw [hcfg, show (sampleStart (xmitLoad s)).sent = _ from hload.sent, bitMask_eq, bitMask_eq] at hsent
      exact hsent
    case env =>
      rw [finish_env, henv', ha]
      rfl
    case now =>
      rw [finish_env, henv']
      exact Nat.le_add_right _ _
    case gap =>
      intro g gaps hg
      rw [finish_env, henv', hgap g gaps hg]
  case later =>
    have hpolled := transacts_poll_clear (touched := (· = s.cfg.aIntf.toNat)) s.cfg.txfBit s rfl
    obtain ⟨d, tr, henv⟩ := hpolled.env
    refine ⟨_, execs_xmit_set hs (pollBit_of_answer ha hf), rfl, rfl, rfl, ?sent, ?env,
      clearFlag_clears s.cfg.txfBit (poll s), hpolled.regs⟩
    case sent =>
      rw [← bitMask_eq]
      exact hpolled.sent
    case env =>
      rw [finish_env, henv, ha]
      rfl

end Sys2Proof.Machine
end

section
/-!
SUPPORT. What the received header bytes decode to, and a base receive that finds a frame: RECV and RECVF deliver it.
-/
namespace Sys2Proof.Machine

/-! ### What the header bytes decode to (R112, R114) -/

/-- The identifier is the whole of sidHigh and the top three bits of sidLow (R86, R87). -/
theorem decodeId_toNat (p : PackedId) : (decodeId p).toNat = p.sidh.toNat * 8 + p.sidl.toNat / 32 := by
  have hlow : (p.sidl.extractLsb' 5 3).toNat = p.sidl.toNat / 32 := by
    have := p.sidl.isLt
    simp only [BitVec.extractLsb'_toNat, Nat.shiftRight_eq_div_pow]
    omega
  rw [decodeId, BitVec.toNat_append, ← Nat.shiftLeft_add_eq_or_of_lt (BitVec.isLt _), hlow, Nat.shiftLeft_eq]

/-- The extended flag is bit 3 of sidLow (R87). -/
theorem decodeExt_eq (p : PackedId) : decodeExt p = decide (p.sidl.toNat / 8 % 2 = 1) := by
  rw [decodeExt, BitVec.getLsbD, Nat.testBit_eq_decide_div_mod_eq]

/-- The extension is the low two bits of sidLow, eid8 and eid0 when the extended flag is set, and 0 otherwise
(R87 to R89). -/
theorem decodeEid_toNat (p : PackedId) :
    (decodeEid p).toNat =
      if p.sidl.toNat / 8 % 2 = 1 then p.sidl.toNat % 4 * 65536 + p.eid8.toNat * 256 + p.eid0.toNat else 0 := by
  have hhigh : (p.sidl.extractLsb' 0 2).toNat = p.sidl.toNat % 4 := by
    simp only [BitVec.extractLsb'_toNat, Nat.shiftRight_zero]
  simp only [decodeEid, decodeExt_eq, decide_eq_true_eq]
  split
  · rw [BitVec.toNat_append, ← Nat.shiftLeft_add_eq_or_of_lt (BitVec.isLt _), BitVec.toNat_append,
      ← Nat.shiftLeft_add_eq_or_of_lt (BitVec.isLt _), hhigh, Nat.shiftLeft_eq, Nat.shiftLeft_eq]
    omega
  · rfl

/-- The data length is the low four bits of the control byte (R90). -/
theorem dlc_toNat (b : Byte) : (b.extractLsb' 0 4).toNat = b.toNat % 16 := by
  simp only [BitVec.extractLsb'_toNat, Nat.shiftRight_zero]

/-- The remote flag is bit 6 of the control byte (R90). -/
theorem rtr_eq (b : Byte) : b.getLsbD 6 = decide (b.toNat / 64 % 2 = 1) := by
  rw [BitVec.getLsbD, Nat.testBit_eq_decide_div_mod_eq]

/-- A control byte whose data length is at most 8 decodes (R114). -/
theorem decodeControl_good {b : Byte} (h : b.toNat % 16 ≤ 8) :
    decodeControl b = some (b.extractLsb' 0 4, b.getLsbD 6) := by
  have hlt : ¬ 8 < b.extractLsb' 0 4 := by
    rw [BitVec.lt_def, dlc_toNat]
    exact Nat.not_lt.mpr h
  rw [decodeControl, if_neg hlt]

/-! ### Payload lanes -/

theorem Payload.get_ofFn (g : Nat → Byte) {i : Nat} (h : i < 8) : (Payload.ofFn g).get i = g i := by
  match i, h with
  | 0, _ | 1, _ | 2, _ | 3, _ | 4, _ | 5, _ | 6, _ | 7, _ => rfl

/-- A payload with nothing loaded is unchanged. -/
theorem Payload.load_zero (p : Payload) (d : List Byte) : p.load 0 d = p := rfl

/-- A loaded payload holds the bytes loaded. -/
theorem Payload.load_get (p : Payload) {n i : Nat} (d : List Byte) (hi : i < n) (h8 : i < 8) :
    (p.load n d).get i = (d[i]?).getD 0 := by
  rw [Payload.load, Payload.get_ofFn _ h8, if_pos hi]

/-! ### The base receive -/

/-- A command that runs the base receive (R202): RECV, SNIFF and RECVF, each with what it does on its return. -/
def RunsReceive (i : Instr) (opc : Byte) (policy : Policy) (onReturn : RxResult → State → State) : Prop :=
  ∀ s ph, s.at opc ph → receivePhase policy ph = true → exec i s = .next (receiveStep opc policy onReturn s ph)

theorem recv_runsReceive : RunsReceive .recv Opc.recv .timed recvReturn := fun _ _ => exec_recv

theorem recvf_runsReceive : RunsReceive .recvf Opc.recvf .timed recvfReturn := fun _ _ => exec_recvf

/-- The five header reads SH0 to SH4 (R176). -/
def readHeaders (s : State) : State := readHeader 4 (readHeader 3 (readHeader 2 (readHeader 1 (readHeader 0 s))))

/-- E.work after the header: the decoded fields (R176). -/
def decodedWork (s : State) : Frame :=
  (s.eng.work.setId s.eng.hdr.id).setControl (s.eng.hdr.dlcByte.extractLsb' 0 4) (s.eng.hdr.dlcByte.getLsbD 6)

/-- The poll, the header reads and the decode of a good header. -/
def headerReceived (s : State) : State := setWork (decodedWork (readHeaders (poll s))) (readHeaders (poll s))

/-- A frame received and its flag cleared: the poll to SXC (R176 to R179). -/
def frameReceived (s : State) : State := clearFlag s.cfg.rxfBit (readPayload (headerReceived s))

/-- The payload burst does not look at the engine's phase. -/
theorem readPayload_goto (opc : Byte) (ph : Phase) (s : State) :
    readPayload (goto opc ph s) = goto opc ph (readPayload s) := by
  by_cases hn : s.eng.work.dataLength.toNat = 0
  · simp only [readPayload, goto_eng, hn, if_true]
  · simp only [readPayload, goto_eng, hn, if_false]
    rfl

/-- The payload burst loads E.work.data with the bytes read, none when the data length is 0 (R178). -/
theorem readPayload_eng (s : State) :
    (readPayload s).eng =
      { s.eng with
        work :=
          { s.eng.work with
            data := s.eng.work.data.load s.eng.work.dataLength.toNat (readData s.eng.work.dataLength.toNat s) } } := by
  by_cases hn : s.eng.work.dataLength.toNat = 0
  · simp only [readPayload, hn, if_true, Payload.load_zero]
  · simp only [readPayload, hn, if_false]
    rfl

/-- SXC clears the flag, whatever phase the state stood at (R179). -/
theorem receiveStep_sxc (opc : Byte) (policy : Policy) (onReturn : RxResult → State → State) (s : State) :
    receiveStep opc policy onReturn (goto opc .sxc s) .sxc = goto opc (.ret .frame) (clearFlag s.cfg.rxfBit s) := rfl

/-- A good header is decoded into E.work, and the payload burst is next (R176). -/
theorem decodeHeader_good {opc : Byte} {s : State} (h : s.eng.hdr.dlcByte.toNat % 16 ≤ 8) :
    decodeHeader opc s = goto opc .sd (setWork (decodedWork s) s) := by
  rw [decodeHeader, decodeControl_good h]
  rfl

/-- The header reads change E.hdr alone among the latches (R176). -/
theorem readHeaders_work (s : State) : (readHeaders s).eng.work = s.eng.work := by
  simp only [readHeaders, readHeader_eng]

theorem readHeaders_consec (s : State) : (readHeaders s).eng.consec = s.eng.consec := by
  simp only [readHeaders, readHeader_eng]

/-- A header read is a one-register read whose byte is latched (R176). -/
theorem transacts_readHeader {touched : Nat → Prop} (k : Fin 5) (s : State)
    (ha : touched (rxHeaderAddr s.cfg k).toNat) :
    Transacts touched [readBytes (rxHeaderAddr s.cfg k) 1] 1 s (readHeader k s) :=
  (Transacts.readOne s ha).trans (.of_eng _)

/-- What the payload burst of a data length sends: nothing when it is 0 (R178). -/
def payloadRead (p : Params) (n : Nat) : List (List Byte) := if n = 0 then [] else [readBytes p.aRxd0 n]

/-- The payload burst is one read at A_RXD0, or nothing (R178). -/
theorem transacts_readPayload {touched : Nat → Prop} (s : State)
    (ha : ∀ k, k < s.eng.work.dataLength.toNat → touched (burstAddr s.cfg.aRxd0 k)) :
    Transacts touched (payloadRead s.cfg s.eng.work.dataLength.toNat) s.eng.work.dataLength.toNat s (readPayload s) := by
  unfold readPayload payloadRead
  by_cases hn : s.eng.work.dataLength.toNat = 0
  · simp only [hn, if_true]
    exact .of_eng s.eng
  · simp only [hn, if_false]
    exact (Transacts.memRead s ha).trans (.of_eng _)

/-- The registers that the receive of a frame with `n` payload bytes reads or writes. -/
def rxTouched (p : Params) (n x : Nat) : Prop :=
  x = p.aIntf.toNat ∨ (∃ k, x = (rxHeaderAddr p k).toNat) ∨ ∃ k, k < n ∧ x = burstAddr p.aRxd0 k

/-- What the header reads send (R176), newest first. -/
def headerRead (p : Params) : List (List Byte) :=
  [readBytes p.aRxdlc 1, readBytes p.aRxeid0 1, readBytes p.aRxeid8 1, readBytes p.aRxsidl 1, readBytes p.aRxsidh 1]

/-- The five header reads, in their order (R176). -/
theorem transacts_readHeaders {touched : Nat → Prop} (s : State) (ha : ∀ k, touched (rxHeaderAddr s.cfg k).toNat) :
    Transacts touched (headerRead s.cfg) 5 s (readHeaders s) := by
  have header (k : Fin 5) (u : State) (hu : u.cfg = s.cfg) :
      Transacts touched [readBytes (rxHeaderAddr s.cfg k) 1] 1 u (readHeader k u) :=
    hu ▸ transacts_readHeader k u (hu ▸ ha k)
  have read0 := header 0 s rfl
  have read1 := read0.trans (header 1 _ read0.cfg)
  have read2 := read1.trans (header 2 _ read1.cfg)
  have read3 := read2.trans (header 3 _ read2.cfg)
  exact read3.trans (header 4 _ read3.cfg)

/-- The poll and the header reads, in this order (R176). -/
theorem transacts_headerReceived (n : Nat) (s : State) :
    Transacts (rxTouched s.cfg n) (headerRead s.cfg ++ [readBytes s.cfg.aIntf 1]) 6 s (headerReceived s) := by
  have polled : Transacts (rxTouched s.cfg n) [readBytes s.cfg.aIntf 1] 1 s (poll s) := .readOne s (.inl rfl)
  have headers := transacts_readHeaders (touched := rxTouched s.cfg n) (poll s) fun k => .inr (.inl ⟨k, rfl⟩)
  have work : Transacts (rxTouched s.cfg n) [] 0 (readHeaders (poll s)) (headerReceived s) := .of_eng _
  exact (polled.trans headers).trans work

/-- The receive of a frame: the poll, the header reads, the payload burst and the clear, in this order (R176 to R179). -/
theorem transacts_frameReceived {n : Nat} {s : State} (hn : (headerReceived s).eng.work.dataLength.toNat = n) :
    Transacts (rxTouched s.cfg n)
      (bitmodBytes s.cfg.aIntf (bitMask s.cfg.rxfBit) 0 :: payloadRead s.cfg n ++
        (headerRead s.cfg ++ [readBytes s.cfg.aIntf 1]))
      (6 + n) s (frameReceived s) := by
  have headers := transacts_headerReceived n s
  have payload : Transacts (rxTouched s.cfg n) (payloadRead s.cfg n) n (headerReceived s)
      (readPayload (headerReceived s)) := by
    have := transacts_readPayload (touched := rxTouched s.cfg n) (headerReceived s) fun k hk =>
      .inr (.inr ⟨k, hn ▸ hk, by rw [headers.cfg]⟩)
    rwa [hn, headers.cfg] at this
  have hcfg := payload.cfg.trans headers.cfg
  have clear : Transacts (rxTouched s.cfg n) [bitmodBytes s.cfg.aIntf (bitMask s.cfg.rxfBit) 0] 0
      (readPayload (headerReceived s)) (frameReceived s) := by
    have := Transacts.writeBit (touched := rxTouched s.cfg n) (a := s.cfg.aIntf) (idx := s.cfg.rxfBit) (value := false)
      (readPayload (headerReceived s)) (.inl rfl)
    rwa [frameReceived, clearFlag, hcfg]
  exact (headers.trans payload).trans clear

/-! ### The frame that a base receive holds -/

section Received

variable {s : State} {f h0 h1 h2 h3 h4 : Byte} {rest : List Byte}

/-- The header reads latch the next five answers (R176). -/
theorem readHeaders_hdr (ha : s.env.answers = h0 :: h1 :: h2 :: h3 :: h4 :: rest) :
    (readHeaders s).eng.hdr = ⟨⟨h0, h1, h2, h3⟩, h4⟩ := by
  simp [readHeaders, readByte, Env.answer, ha, Header.set]

/-- After the poll and the header reads E.hdr holds the five answers after the flags. -/
theorem readHeaders_poll_hdr (ha : s.env.answers = f :: h0 :: h1 :: h2 :: h3 :: h4 :: rest) :
    (readHeaders (poll s)).eng.hdr = ⟨⟨h0, h1, h2, h3⟩, h4⟩ :=
  readHeaders_hdr (rest := rest) (by simp [poll, ha])

/-- After the header reads E.work holds the decoded header over the payload it held (R176). -/
theorem headerReceived_work (ha : s.env.answers = f :: h0 :: h1 :: h2 :: h3 :: h4 :: rest) :
    (headerReceived s).eng.work =
      (s.eng.work.setId ⟨h0, h1, h2, h3⟩).setControl (h4.extractLsb' 0 4) (h4.getLsbD 6) := by
  rw [headerReceived, setWork_eng, decodedWork, readHeaders_poll_hdr ha, readHeaders_work, poll, memRead_eng]

/-- The data length that the header gives. -/
theorem headerReceived_dataLength (ha : s.env.answers = f :: h0 :: h1 :: h2 :: h3 :: h4 :: rest) :
    (headerReceived s).eng.work.dataLength.toNat = h4.toNat % 16 := by
  rw [headerReceived_work ha]
  exact dlc_toNat h4

/-- The frame received has the decoded header, and the bytes of the burst as its payload (R176, R178). -/
theorem frameReceived_work (ha : s.env.answers = f :: h0 :: h1 :: h2 :: h3 :: h4 :: rest) :
    (frameReceived s).eng.work =
      { (s.eng.work.setId ⟨h0, h1, h2, h3⟩).setControl (h4.extractLsb' 0 4) (h4.getLsbD 6) with
        data := s.eng.work.data.load (h4.toNat % 16) (readData (h4.toNat % 16) (headerReceived s)) } := by
  rw [show (frameReceived s).eng = (readPayload (headerReceived s)).eng from rfl, readPayload_eng,
    headerReceived_dataLength ha, headerReceived_work ha]
  rfl

/-- A base receive that finds a frame does not touch the count of RECVF. -/
theorem frameReceived_consec (s : State) : (frameReceived s).eng.consec = s.eng.consec := by
  rw [show (frameReceived s).eng = (readPayload (headerReceived s)).eng from rfl, readPayload_eng, headerReceived,
    setWork_eng, readHeaders_consec, poll, memRead_eng]

/-- The answers left for the payload burst are those after the header. -/
theorem headerReceived_answers (ha : s.env.answers = f :: h0 :: h1 :: h2 :: h3 :: h4 :: rest) :
    (headerReceived s).env.answers = rest := by
  obtain ⟨_, _, henv⟩ := (transacts_headerReceived 0 s).env
  rw [henv, ha]
  rfl

/-- Byte `i` of the payload received is the answer given for it (R178). -/
theorem frameReceived_get (ha : s.env.answers = f :: h0 :: h1 :: h2 :: h3 :: h4 :: rest) {i : Nat}
    (hi : i < h4.toNat % 16) (h8 : i < 8) (hr : i < rest.length) :
    (frameReceived s).eng.work.data.get i = rest[i] := by
  have hanswers := headerReceived_answers ha
  rw [frameReceived_work ha, Payload.load_get _ _ hi h8, List.getElem?_eq_getElem (by simpa using hi),
    Option.getD_some, readData_getElem _ _ _ hi, answer_of_lt _ (hanswers ▸ hr)]
  simp only [hanswers]

end Received

/-! ### Commit -/

/-- The frame that a commit writes to F: E.work, its bytes beyond the data length free (R178). -/
def committedFrame (s : State) : Frame :=
  { s.eng.work with
    data :=
      Payload.ofFn fun i =>
        if i < s.eng.work.dataLength.toNat then s.eng.work.data.get i else Config.frameByte s.env.draws i }

@[simp] theorem commit_host (s : State) : (commit s).host = { s.host with frame := committedFrame s } := rfl
@[simp] theorem commit_eng (s : State) : (commit s).eng = s.eng := rfl
@[simp] theorem commit_ctl (s : State) : (commit s).ctl = s.ctl := rfl
@[simp] theorem commit_cfg (s : State) : (commit s).cfg = s.cfg := rfl
@[simp] theorem commit_env (s : State) : (commit s).env = { s.env with draws := s.env.draws + 1 } := rfl

/-- The bytes of F within the data length are those of E.work (R178). -/
theorem committedFrame_get {s : State} {i : Nat} (hi : i < s.eng.work.dataLength.toNat) (h8 : i < 8) :
    (committedFrame s).data.get i = s.eng.work.data.get i := by
  rw [committedFrame, Payload.get_ofFn _ h8, if_pos hi]

section Run

variable {i : Instr} {opc : Byte} {policy : Policy} {onReturn : RxResult → State → State}

/-- One step of a receiver at a phase. -/
theorem RunsReceive.execs_goto (hrun : RunsReceive i opc policy onReturn) {ph : Phase}
    (hph : receivePhase policy ph = true) (k : Nat) (s : State) :
    execs i (k + 1) (goto opc ph s) = execs i k (receiveStep opc policy onReturn (goto opc ph s) ph) :=
  execs_succ (hrun _ _ rfl hph)

/-- SH0 to SH4 take five steps when the header is good. -/
theorem RunsReceive.execs_readHeaders (hrun : RunsReceive i opc policy onReturn) (k : Nat) (s : State)
    (hdlc : (readHeaders s).eng.hdr.dlcByte.toNat % 16 ≤ 8) :
    execs i (k + 5) (goto opc (.sh 0) s) =
      execs i k (goto opc .sd (setWork (decodedWork (readHeaders s)) (readHeaders s))) :=
  calc execs i (k + 5) (goto opc (.sh 0) s)
    _ = execs i (k + 4) (goto opc (.sh 1) (readHeader 0 s)) := hrun.execs_goto rfl _ _
    _ = execs i (k + 3) (goto opc (.sh 2) (readHeader 1 (readHeader 0 s))) := hrun.execs_goto rfl _ _
    _ = execs i (k + 2) (goto opc (.sh 3) (readHeader 2 (readHeader 1 (readHeader 0 s)))) := hrun.execs_goto rfl _ _
    _ = execs i (k + 1) (goto opc (.sh 4) (readHeader 3 (readHeader 2 (readHeader 1 (readHeader 0 s))))) :=
      hrun.execs_goto rfl _ _
    _ = execs i k (decodeHeader opc (goto opc (.sh 4) (readHeaders s))) := hrun.execs_goto rfl _ _
    _ = execs i k (goto opc .sd (setWork (decodedWork (readHeaders s)) (readHeaders s))) := by
      rw [decodeHeader_good (s := goto opc (.sh 4) (readHeaders s)) hdlc]
      rfl

/-- From a poll that finds RXF set, a good frame takes eight steps to the receiver's return. -/
theorem RunsReceive.execs_frame (hrun : RunsReceive i opc policy onReturn) (k : Nat) {s : State} (hs : s.at opc .sp)
    (hbit : pollBit s.cfg.rxfBit s = true) (hdlc : (readHeaders (poll s)).eng.hdr.dlcByte.toNat % 16 ≤ 8) :
    execs i (k + 8) s = execs i k (goto opc (.ret .frame) (frameReceived s)) := by
  have hcfg : (readPayload (headerReceived s)).cfg = s.cfg := (transacts_frameReceived rfl).cfg
  calc execs i (k + 8) s
    _ = execs i (k + 7) (goto opc (.sh 0) (poll s)) :=
      execs_succ ((hrun s .sp hs rfl).trans (congrArg _ (if_pos hbit)))
    _ = execs i (k + 2) (goto opc .sd (headerReceived s)) := hrun.execs_readHeaders (k + 2) (poll s) hdlc
    _ = execs i (k + 1) (goto opc .sxc (readPayload (goto opc .sd (headerReceived s)))) := hrun.execs_goto rfl _ _
    _ = execs i (k + 1) (goto opc .sxc (readPayload (headerReceived s))) := by rw [readPayload_goto]; rfl
    _ = execs i k (receiveStep opc policy onReturn (goto opc .sxc (readPayload (headerReceived s))) .sxc) :=
      hrun.execs_goto rfl _ _
    _ = execs i k (goto opc (.ret .frame) (frameReceived s)) := by rw [receiveStep_sxc, hcfg, frameReceived]

end Run

/-! ### Delivery -/

/-- A frame that RECVF's TARGET matches is committed (R192). -/
theorem recvfReturn_frame_match {s : State} (h : s.eng.work.identifier = s.host.target) :
    recvfReturn .frame s = finish (commit s) := if_pos h

/-- RECV and RECVF are receivers that commit a frame on their return, RECVF where the identifier matches (R180, R190). -/
theorem deliverers {r : Instr × Byte} (hr : r ∈ [(Instr.recv, Opc.recv), (Instr.recvf, Opc.recvf)]) :
    ∃ onReturn, RunsReceive r.1 r.2 .timed onReturn ∧
      ∀ s, (r.1 = .recvf → s.eng.work.identifier = s.host.target) → onReturn .frame s = finish (commit s) := by
  simp only [List.mem_cons, List.not_mem_nil, or_false] at hr
  rcases hr with rfl | rfl
  · exact ⟨_, recv_runsReceive, fun _ _ => rfl⟩
  · exact ⟨_, recvf_runsReceive, fun _ hmatch => recvfReturn_frame_match (hmatch rfl)⟩

/-- The state at the poll step that finds the frame: after S0's clock sample if it is the first, and here otherwise. -/
def atPoll (opc : Byte) (first : Bool) (s : State) : State := goto opc .sp (if first then sampleStart s else s)

theorem atPoll_cfg (opc : Byte) (first : Bool) (s : State) : (atPoll opc first s).cfg = s.cfg := by
  cases first <;> rfl

theorem atPoll_host (opc : Byte) (first : Bool) (s : State) : (atPoll opc first s).host = s.host := by
  cases first <;> rfl

theorem atPoll_ctl (opc : Byte) (first : Bool) (s : State) : (atPoll opc first s).ctl = s.ctl := by
  cases first <;> rfl

theorem atPoll_consec (opc : Byte) (first : Bool) (s : State) : (atPoll opc first s).eng.consec = s.eng.consec := by
  cases first <;> rfl

theorem atPoll_sent (opc : Byte) (first : Bool) (s : State) : (atPoll opc first s).sent = s.sent := by
  cases first <;> rfl

/-- S0 takes a clock gap, and nothing else of the outside world (R173). -/
theorem atPoll_env (opc : Byte) (first : Bool) (s : State) :
    ∃ draws,
      (atPoll opc first s).env =
        { s.env with
          clockGaps := s.env.clockGaps.drop (if first then 1 else 0)
          now := if first then s.env.nextTime else s.env.now
          draws := draws } := by
  cases first <;> exact ⟨_, rfl⟩

/-- The steps of a receiver from its start, or from a later poll, to the poll that finds the frame. -/
theorem RunsReceive.execs_atPoll {i : Instr} {opc : Byte} {onReturn : RxResult → State → State}
    (hrun : RunsReceive i opc .timed onReturn) (first : Bool) {s : State} (hs : s.at opc (if first then .s0 else .sp)) :
    execs i (if first then 10 else 9) s = execs i 9 (atPoll opc first s) := by
  cases first with
  | true => exact execs_succ (hrun s .s0 hs rfl)
  | false => exact congrArg (execs i 9) (goto_eq_self hs).symm

/-- The completion of a commit does not look at the engine's phase. -/
theorem finish_commit_goto (opc : Byte) (ph : Phase) (s : State) :
    finish (commit (goto opc ph s)) = finish (commit s) := rfl

/-- From a poll that finds RXF set and a good header, nine steps take a receiver that commits the frame to its success. -/
theorem RunsReceive.execs_deliver {i : Instr} {opc : Byte} {policy : Policy} {onReturn : RxResult → State → State}
    (hrun : RunsReceive i opc policy onReturn) {s : State} {f h0 h1 h2 h3 h4 : Byte} {rest : List Byte}
    (hs : s.at opc .sp) (ha : s.env.answers = f :: h0 :: h1 :: h2 :: h3 :: h4 :: rest)
    (hf : f.getLsbD s.cfg.rxfBit.toNat = true) (hdlc : h4.toNat % 16 ≤ 8)
    (hreturn : onReturn .frame (goto opc (.ret .frame) (frameReceived s)) =
      finish (commit (goto opc (.ret .frame) (frameReceived s)))) :
    execs i 9 s = .next (finish (commit (frameReceived s))) :=
  calc execs i 9 s
    _ = execs i 1 (goto opc (.ret .frame) (frameReceived s)) :=
      hrun.execs_frame 1 hs (pollBit_of_answer ha hf) (by rw [readHeaders_poll_hdr ha]; exact hdlc)
    _ = .next (onReturn .frame (goto opc (.ret .frame) (frameReceived s))) := hrun.execs_goto rfl _ _
    _ = .next (finish (commit (frameReceived s))) := by rw [hreturn, finish_commit_goto]

/-- Settles O26: from the poll that finds RXF set, the base receive reads the frame, and the return commits it. -/
theorem recvDeliversTheFrame : Obligations.RecvDeliversTheFrame := by
  intro r hr first s f h0 h1 h2 h3 h4 rest hs ha hf hdlc hlen hmatch
  obtain ⟨onReturn, hrun, hreturn⟩ := deliverers hr
  have hexec := hrun.execs_atPoll first hs
  obtain ⟨d, henv⟩ := atPoll_env r.2 first s
  have hhost := atPoll_host r.2 first s
  have hctl := atPoll_ctl r.2 first s
  have hcfg := atPoll_cfg r.2 first s
  have hconsec := atPoll_consec r.2 first s
  have hsent := atPoll_sent r.2 first s
  have hat : (atPoll r.2 first s).at r.2 .sp := rfl
  generalize atPoll r.2 first s = p at *
  have hpa : p.env.answers = f :: h0 :: h1 :: h2 :: h3 :: h4 :: rest := by rw [henv]; exact ha
  have hwork := frameReceived_work hpa
  have hget : ∀ i, i < h4.toNat % 16 → some ((frameReceived p).eng.work.data.get i) = rest[i]? := fun i hi => by
    rw [frameReceived_get hpa hi (by omega) (by omega), List.getElem?_eq_getElem]
  have hrx := transacts_frameReceived (headerReceived_dataLength hpa)
  have hdeliver := hrun.execs_deliver hat hpa (hcfg ▸ hf) hdlc
  rw [← frameReceived_consec] at hconsec
  generalize frameReceived p = q at *
  obtain ⟨d', tr', hrxEnv⟩ := hrx.env
  have hdlcWork : q.eng.work.dataLength.toNat = h4.toNat % 16 := by rw [hwork]; exact dlc_toNat h4
  have hid : q.eng.work.identifier.toNat = h0.toNat * 8 + h1.toNat / 32 := by rw [hwork]; exact decodeId_toNat _
  have htarget (hi : r.1 = .recvf) : q.eng.work.identifier = q.host.target := by
    rw [hrx.host, hhost]
    exact BitVec.eq_of_toNat_eq (hid.trans (hmatch hi))
  refine ⟨finish (commit q), hexec.trans (hdeliver (hreturn _ htarget)), ?host, hid, ?ext, ?eid, hdlcWork, ?rtr,
    fun i hi => ?data, rfl, hconsec, hrx.cfg.trans hcfg, ?sent, ?env, ?regs⟩
  case host => rw [finish_host, commit_host, hrx.host, hhost]; rfl
  case ext =>
    show q.eng.work.isExtended = _
    rw [hwork]
    exact decodeExt_eq _
  case eid =>
    show q.eng.work.extendedIdentifier.toNat = _
    rw [hwork]
    exact decodeEid_toNat _
  case rtr =>
    show q.eng.work.isRemoteRequest = _
    rw [hwork]
    exact rtr_eq h4
  case data =>
    show some ((committedFrame q).data.get i) = _
    rw [committedFrame_get (hdlcWork ▸ hi) (by omega), hget i hi]
  case sent =>
    have h := hrx.sent
    rw [hcfg, hsent, bitMask_eq] at h
    exact h
  case env =>
    rw [finish_env, commit_env, hrxEnv, henv, ha, ← List.drop_drop]
    rfl
  case regs =>
    rw [hcfg] at hrx
    intro x hx
    exact (hrx.regs x hx).trans (by rw [hctl])

end Sys2Proof.Machine
end

section
/-!
SUPPORT. What the work between two phases keeps: the parameters, the real time's direction, and the bounds of the state that
do not depend on the phase the engine is in.
-/
namespace Sys2Proof.Machine

/-! ### Transactions that the block may emit (R83) -/

theorem decodeXact_readBytes (a : Byte) {n : Nat} (hn : 1 ≤ n) :
    decodeXact (readBytes a n) = .ok (.ctlRead a n) := by
  obtain ⟨m, rfl⟩ := Nat.exists_eq_add_of_le' hn
  simp [decodeXact, decodeRead, readBytes, zeros, List.replicate_succ, Spi.read, Spi.reset]

theorem decodeXact_writeBytes (a : Byte) {v : List Byte} (hv : v ≠ []) :
    decodeXact (writeBytes a v) = .ok (.ctlWrite a v) := by
  obtain ⟨d, ds, rfl⟩ := List.exists_cons_of_ne_nil hv
  rfl

/-- A read of at least one register is a transaction that the block may emit (R66). -/
theorem emitted_readBytes (a : Byte) {n : Nat} (hn : 1 ≤ n) {received : List Byte} (hr : received.length = n + 2) :
    (⟨readBytes a n, received⟩ : Transaction).emitted = true := by
  have hlen : (readBytes a n).length = n + 2 := by simp [readBytes, zeros]
  simp [Transaction.emitted, decodeXact_readBytes a hn, hlen, hr]

/-- A write of at least one byte is a transaction that the block may emit (R67). -/
theorem emitted_writeBytes (a : Byte) {v received : List Byte} (hv : v ≠ []) (hr : received.length = v.length + 2) :
    (⟨writeBytes a v, received⟩ : Transaction).emitted = true := by
  have hlen : (writeBytes a v).length = v.length + 2 := rfl
  simp [Transaction.emitted, decodeXact_writeBytes a hv, hlen, hr]

/-- A bit-modify is a transaction that the block may emit (R68). -/
theorem emitted_bitmodBytes (a m v : Byte) {received : List Byte} (hr : received.length = 4) :
    (⟨bitmodBytes a m v, received⟩ : Transaction).emitted = true := by
  simp only [Transaction.emitted, hr]
  rfl

/-- A controller reset is a transaction that the block may emit (R69). -/
theorem emitted_resetBytes {received : List Byte} (hr : received.length = 1) :
    (⟨resetBytes, received⟩ : Transaction).emitted = true := by
  simp only [Transaction.emitted, hr]
  rfl

/-! ### What every step keeps -/

/-- The part of the invariant that does not speak of the phase or of STATUS. -/
structure State.Sound (s : State) : Prop where
  params : s.cfg.wf = true
  timeout : s.host.timeout.toNat < 2 ^ s.cfg.clockWidth
  start : s.eng.start.toNat < 2 ^ s.cfg.clockWidth
  memory : s.ctl.cr.wf = true
  trace : ∀ t ∈ s.env.trace, t.emitted = true

theorem State.Inv.sound {s : State} (h : s.Inv) : s.Sound := ⟨h.params, h.timeout, h.start, h.memory, h.trace⟩

/-- What every step of the machine does: it keeps the parameters (R8), does not take real time back (R33), and keeps the
sound part of the state. -/
structure Keeps (s t : State) : Prop where
  cfg : t.cfg = s.cfg
  now : s.env.now ≤ t.env.now
  sound : s.Sound → t.Sound

namespace Keeps

variable {s t u : State}

theorem refl (s : State) : Keeps s s := ⟨rfl, le_rfl, id⟩

theorem trans (h : Keeps s t) (h' : Keeps t u) : Keeps s u :=
  ⟨h'.cfg.trans h.cfg, h.now.trans h'.now, h'.sound ∘ h.sound⟩

/-- A change of host registers is sound when TIMEOUT keeps its W bits (R25). -/
theorem of_host (s : State) {r : HostRegs}
    (hr : s.Sound → r.timeout.toNat < 2 ^ s.cfg.clockWidth) : Keeps s { s with host := r } :=
  ⟨rfl, le_rfl, fun h => ⟨h.params, hr h, h.start, h.memory, h.trace⟩⟩

/-- A completion touches STATUS and the phase alone (R213). -/
theorem finish (s : State) : Keeps s (finish s) :=
  ⟨rfl, le_rfl, fun h => ⟨h.params, h.timeout, h.start, h.memory, h.trace⟩⟩

theorem raise (e : CmdError) (s : State) : Keeps s (raise e s) :=
  ⟨rfl, le_rfl, fun h => ⟨h.params, h.timeout, h.start, h.memory, h.trace⟩⟩

theorem goto (opc : Byte) (ph : Phase) (s : State) : Keeps s (goto opc ph s) :=
  ⟨rfl, le_rfl, fun h => ⟨h.params, h.timeout, h.start, h.memory, h.trace⟩⟩

theorem accept (w : Word) (s : State) : Keeps s (accept w s) :=
  ⟨rfl, le_rfl, fun h => ⟨h.params, h.timeout, h.start, h.memory, h.trace⟩⟩

theorem setResult (b : Byte) (a : Bool) (s : State) : Keeps s (setResult b a s) := .of_host s State.Sound.timeout

theorem setFrame (f : Frame) (s : State) : Keeps s (setFrame f s) := .of_host s State.Sound.timeout

/-- A commit writes F and draws free bytes (R178). -/
theorem commit (s : State) : Keeps s (commit s) :=
  ⟨rfl, le_rfl, fun h => ⟨h.params, h.timeout, h.start, h.memory, h.trace⟩⟩

/-- The block reset leaves TIMEOUT 0, E.start with W bits, and what is known of the controller or nothing (R230, R231). -/
theorem blockReset (s : State) : Keeps s (blockReset s) where
  cfg := rfl
  now := le_rfl
  sound h :=
    { params := h.params
      timeout := Nat.two_pow_pos _
      start := lowBits_lt _ (Params.wf_width h.params).2 _
      memory := by
        show (ctlAfterReset s).cr.wf = true
        unfold ctlAfterReset
        split
        · exact h.memory
        · rfl
      trace := h.trace }

end Keeps

/-! ### The work between two phases -/

/-- The work of a step that leaves its command running: it writes no host register. -/
structure Works (s t : State) : Prop extends Keeps s t where
  host : t.host = s.host

namespace Works

variable {s t u : State}

theorem refl (s : State) : Works s s := ⟨.refl s, rfl⟩

theorem trans (h : Works s t) (h' : Works t u) : Works s u := ⟨h.toKeeps.trans h'.toKeeps, h'.host.trans h.host⟩

/-- A change of latches is sound when E.start keeps its W bits (R36). -/
theorem of_eng (s : State) {e : Engine} (he : s.Sound → e.start.toNat < 2 ^ s.cfg.clockWidth) :
    Works s { s with eng := e } :=
  ⟨⟨rfl, le_rfl, fun h => ⟨h.params, h.timeout, he h, h.memory, h.trace⟩⟩, rfl⟩

/-- A change of the controller's record is sound when it keeps the canonical form (R60). -/
theorem of_ctl (s : State) {c : Controller} (hc : s.ctl.cr.wf = true → c.cr.wf = true) :
    Works s { s with ctl := c } :=
  ⟨⟨rfl, le_rfl, fun h => ⟨h.params, h.timeout, h.start, hc h.memory, h.trace⟩⟩, rfl⟩

/-- A change of the outside world is sound when real time does not go back and no transaction is added. -/
theorem of_env (s : State) {e : Env} (hnow : s.env.now ≤ e.now) (htrace : e.trace = s.env.trace) :
    Works s { s with env := e } :=
  ⟨⟨rfl, hnow, fun h => ⟨h.params, h.timeout, h.start, h.memory, htrace ▸ h.trace⟩⟩, rfl⟩

/-- A transaction that the block may emit is sound when the controller's record keeps the canonical form. -/
theorem of_record (s : State) {sent received : List Byte} (used : Nat) {c : Controller}
    (hx : (⟨sent, received⟩ : Transaction).emitted = true) (hc : s.ctl.cr.wf = true → c.cr.wf = true) :
    Works s { s with ctl := c, env := s.env.record sent received used } :=
  ⟨⟨rfl, le_rfl, fun h => ⟨h.params, h.timeout, h.start, hc h.memory, List.forall_mem_cons.mpr ⟨hx, h.trace⟩⟩⟩, rfl⟩

/-! The transactions (R66 to R69). -/

theorem memRead (a : Byte) {n : Nat} (hn : 1 ≤ n) (s : State) : Works s (memRead a n s) :=
  .of_record s n (emitted_readBytes a hn (by simp [Nat.add_comm])) (burst_observe_wf _ _ _ _)

theorem memWrite (a : Byte) {v : List Byte} (hv : v ≠ []) (s : State) : Works s (memWrite a v s) :=
  .of_record s 0 (emitted_writeBytes a hv (slots_length _ _)) (burst_store_wf _ _ _ _)

theorem bitMod (a m v : Byte) (s : State) : Works s (bitMod a m v s) :=
  .of_record s 0 (emitted_bitmodBytes a m v (slots_length _ _)) (Memory.write_wf _ _ a.isLt)

theorem ctlReset (s : State) : Works s (ctlReset s) :=
  .of_record s 0 (emitted_resetBytes (slots_length _ _)) fun _ => rfl

theorem writeBit (a : Byte) (idx : BitVec 3) (value : Bool) (s : State) : Works s (writeBit a idx value s) :=
  .bitMod a _ _ s

theorem writeRegister (honoured : Bool) (a b : Byte) (s : State) : Works s (writeRegister honoured a b s) :=
  (Works.memWrite a (List.cons_ne_nil b []) s).trans (.of_ctl _ (settle_wf honoured a _))

theorem clearFlag (bit : BitVec 3) (s : State) : Works s (clearFlag bit s) := .writeBit _ bit false s

theorem poll (s : State) : Works s (poll s) := .memRead _ le_rfl s

/-! The latches (R36 to R39). -/

theorem readLatch (a : Byte) (s : State) : Works s (readLatch a s) :=
  (Works.memRead a le_rfl s).trans (.of_eng _ State.Sound.start)

theorem readHeader (k : Fin 5) (s : State) : Works s (readHeader k s) :=
  (Works.memRead (rxHeaderAddr s.cfg k) le_rfl s).trans (.of_eng _ State.Sound.start)

theorem setWork (f : Frame) (s : State) : Works s (setWork f s) := .of_eng s State.Sound.start

theorem setConsec (n : BitVec 4) (s : State) : Works s (setConsec n s) := .of_eng s State.Sound.start

/-- Real time does not go back at a sample (R33). -/
theorem sampleClock (s : State) : Works s (sampleClock s) := .of_env s (Nat.le_add_right _ _) rfl

/-- E.start takes a clock value, which has W bits (R36, R173). -/
theorem sampleStart (s : State) : Works s (sampleStart s) :=
  (Works.sampleClock s).trans (.of_eng _ fun h => lowBits_lt _ (Params.wf_width h.params).2 _)

/-! The header and payload steps. -/

theorem readPayload (s : State) : Works s (readPayload s) := by
  unfold Machine.readPayload
  dsimp only
  split
  · exact .refl s
  · next hn => exact (Works.memRead s.cfg.aRxd0 (Nat.one_le_iff_ne_zero.mpr hn) s).trans (.setWork _ _)

theorem writeHeader (k : Fin 5) (s : State) : Works s (writeHeader k s) := .memWrite _ (List.cons_ne_nil _ []) s

theorem writePayload (s : State) : Works s (writePayload s) := by
  unfold Machine.writePayload
  dsimp only
  split
  · exact .refl s
  · next hn => exact .memWrite _ (by simpa [Payload.take] using hn) s

/-! The controller's power-on, and the inputs (R53, R72). -/

theorem controllerPowerOn (s : State) : Works s (controllerPowerOn s) := .of_ctl s fun _ => rfl

theorem clearPort (s : State) : Works s (clearPort s) := .of_env s le_rfl rfl

theorem setInputs (l : List Input) (s : State) : Works s (setInputs l s) := .of_env s le_rfl rfl

end Works

end Sys2Proof.Machine
end

section
/-!
SUPPORT. What a step of a running command can do, said once for every command: it goes to another phase of the command, or
it completes the command (10_state.md R35, 60_exceptions.md R213).
-/
namespace Sys2Proof.Machine

/-! ### The phases' part of the invariant -/

/-- What the invariant says of a state that is at a phase of a command. -/
structure State.Ready (opc : Byte) (ph : Phase) (s : State) : Prop where
  legal : legalPhase opc ph = true
  consec : s.eng.consec.toNat ≤ 8
  retries : opc = Opc.recvf → ph ≠ .line 0 → s.eng.consec.toNat < filterRetries
  workLength : decodedPhase ph = true → s.eng.work.dataLength.toNat ≤ 8
  xmitLength : opc = Opc.xmit → ph ≠ .s0 → s.host.frame.dataLength.toNat ≤ 8

theorem State.Inv.ready {s : State} {opc : Byte} {ph : Phase} (h : s.Inv) (hs : s.at opc ph) : s.Ready opc ph where
  legal := (h.control opc ph hs).2
  consec := h.consec
  retries ho := h.retries ph (ho ▸ hs)
  workLength := h.workLength opc ph hs
  xmitLength ho := h.xmitLength ph (ho ▸ hs)

variable {opc : Byte} {ph ph' : Phase} {s t u : State}

/-- A line of a command that is neither RECVF nor XMIT asks for the bound of E.consec alone. -/
theorem State.Ready.of_line {k : Nat} (hopc : opc ∉ [Opc.recvf, Opc.xmit]) (hl : legalPhase opc (.line k) = true)
    (hc : s.eng.consec.toNat ≤ 8) : s.Ready opc (.line k) where
  legal := hl
  consec := hc
  retries ho := absurd (by simp [ho]) hopc
  workLength := nofun
  xmitLength ho := absurd (by simp [ho]) hopc

/-- A base receive goes on with the count it has, and to a phase after the decode with a data length in range only. -/
theorem State.Ready.receive (h : s.Ready opc ph) (hopc : opc ≠ Opc.xmit) (hph : ph ≠ .line 0)
    (hl : legalPhase opc ph' = true) (hc : u.eng.consec = s.eng.consec)
    (hwork : decodedPhase ph' = true → u.eng.work.dataLength.toNat ≤ 8) : u.Ready opc ph' where
  legal := hl
  consec := hc ▸ h.consec
  retries ho _ := hc ▸ h.retries ho hph
  workLength := hwork
  xmitLength ho := absurd ho hopc

/-- XMIT goes on with the frame it has, whose data length S0 has checked (R195). -/
theorem State.Ready.xmit (h : s.Ready Opc.xmit ph) (hl : xmitPhase ph' = true) (hc : u.eng.consec = s.eng.consec)
    (hlen : u.host.frame.dataLength.toNat ≤ 8) : u.Ready Opc.xmit ph' where
  legal := hl
  consec := hc ▸ h.consec
  retries ho := absurd ho (by decide)
  workLength hd := by cases ph' <;> cases hl <;> cases hd
  xmitLength _ _ := hlen

/-! ### A step of a running command -/

/-- What the last step of a command leaves before its completion: DLC as it was, or at most 8 (R28). -/
structure Ends (opc : Byte) (ph : Phase) (s u : State) : Prop extends Keeps s u where
  consec : s.Ready opc ph → u.eng.consec.toNat ≤ 8
  dataLength : s.Ready opc ph →
    u.host.frame.dataLength = s.host.frame.dataLength ∨ u.host.frame.dataLength.toNat ≤ 8

/-- A step of a command from a phase: to another phase, or to its completion with success or with an error. -/
inductive Moves (opc : Byte) (ph : Phase) (s : State) : State → Prop
  | goto {ph' : Phase} {u : State} (works : Works s u) (ready : s.Ready opc ph → u.Ready opc ph') :
    Moves opc ph s (goto opc ph' u)
  | finish {u : State} (ends : Ends opc ph s u) : Moves opc ph s (finish u)
  | raise (e : CmdError) {u : State} (ends : Ends opc ph s u) : Moves opc ph s (raise e u)

/-- A last step that writes neither DLC nor E.consec. -/
theorem Ends.of_keeps (hk : Keeps s u) (hc : u.eng.consec = s.eng.consec)
    (hd : u.host.frame.dataLength = s.host.frame.dataLength) : Ends opc ph s u :=
  ⟨hk, fun h => hc ▸ h.consec, fun _ => .inl hd⟩

theorem Ends.refl (s : State) : Ends opc ph s s := .of_keeps (.refl s) rfl rfl

theorem Ends.setResult (b : Byte) (a : Bool) (s : State) : Ends opc ph s (setResult b a s) :=
  .of_keeps (.setResult b a s) rfl rfl

/-- A receive commits the header it has decoded (R178). -/
theorem Ends.commit (s : State) : Ends opc (.ret .frame) s (commit s) :=
  ⟨.commit s, State.Ready.consec, fun h => .inr (h.workLength rfl)⟩

/-! ### Procedures without labels -/

/-- A transaction of a procedure without labels: it writes no host register, and E.consec is not its business. -/
def IsOp (op : State → State) : Prop := ∀ s, Works s (op s) ∧ (op s).eng.consec = s.eng.consec

theorem isOp_memWrite (a b : State → Byte) : IsOp fun s => memWrite (a s) [b s] s :=
  fun s => ⟨.memWrite _ (List.cons_ne_nil _ []) s, rfl⟩

theorem isOp_writeBit (a : State → Byte) (idx : State → BitVec 3) (value : State → Bool) :
    IsOp fun s => writeBit (a s) (idx s) (value s) s :=
  fun s => ⟨.writeBit _ _ _ s, rfl⟩

theorem isOp_writeRegister (honoured : State → Bool) (a b : State → Byte) :
    IsOp fun s => writeRegister (honoured s) (a s) (b s) s :=
  fun s => ⟨.writeRegister _ _ _ s, rfl⟩

theorem isOp_readLatch (a : State → Byte) : IsOp fun s => readLatch (a s) s := fun s => ⟨.readLatch _ s, rfl⟩

theorem isOp_ctlReset : IsOp ctlReset := fun s => ⟨.ctlReset s, rfl⟩

/-- A procedure without labels makes its transactions, and then completes. -/
theorem moves_straightLine {ops : List (State → State)} {complete : State → State}
    (h : straightLine opc ops complete ph s = .next t) (hops : ops.Forall IsOp)
    (hcomplete : ∀ ph s, Moves opc ph s (complete s)) (hopc : opc ∉ [Opc.recvf, Opc.xmit])
    (hline : ∀ k, k ≤ ops.length → legalPhase opc (.line k) = true) : Moves opc ph s t := by
  obtain ⟨k, op, -, hop, rfl⟩ | ⟨-, rfl⟩ := straightLine_next h
  · obtain ⟨hworks, hconsec⟩ := List.forall_iff_forall_mem.mp hops op (List.mem_of_getElem? hop) s
    have hk : k < ops.length := (List.getElem?_eq_some_iff.mp hop).1
    exact .goto hworks fun hr => .of_line hopc (hline (k + 1) hk) (hconsec ▸ hr.consec)
  · exact hcomplete ph s

theorem moves_finish (ph : Phase) (s : State) : Moves opc ph s (finish s) := .finish (.refl s)

theorem moves_encidStep (ph : Phase) (s : State) : Moves opc ph s (encidStep s) :=
  .finish (.of_keeps (.of_host s State.Sound.timeout) rfl rfl)

theorem moves_decidStep (ph : Phase) (s : State) : Moves opc ph s (decidStep s) :=
  .finish (.of_keeps (.setFrame _ s) rfl rfl)

theorem moves_encctlStep (ph : Phase) (s : State) : Moves opc ph s (encctlStep s) := by
  unfold encctlStep
  split
  · exact .raise _ (.refl s)
  · exact .finish (.of_keeps (.of_host s State.Sound.timeout) rfl rfl)

/-- A data length that the control byte gives is at most 8 (R114). -/
theorem decodeControl_le {b : Byte} {dlc : BitVec 4} {rtr : Bool} (h : decodeControl b = some (dlc, rtr)) :
    dlc.toNat ≤ 8 := by
  unfold decodeControl at h
  split at h
  · cases h
  · next hle =>
    cases h
    exact Nat.not_lt.mp hle

theorem moves_decctlStep (ph : Phase) (s : State) : Moves opc ph s (decctlStep s) := by
  unfold decctlStep
  split
  · exact .raise _ (.refl s)
  · next dlc rtr hdlc => exact .finish ⟨.setFrame _ s, State.Ready.consec, fun _ => .inr (decodeControl_le hdlc)⟩

theorem moves_confirm (code : BitVec 3) (ph : Phase) (s : State) : Moves opc ph s (confirm code s) := by
  unfold confirm
  split
  · exact .finish (.setResult _ _ s)
  · exact .raise _ (.setResult _ _ s)

/-! ### The base receive (R180) -/

section Receive

variable {policy : Policy} {onReturn : RxResult → State → State}

/-- What follows the last header read: a payload burst for a data length in range, and a clear otherwise (R176, R177). -/
theorem moves_decodeHeader (hopc : opc ≠ Opc.xmit) (hph : ph ≠ .line 0)
    (hlegal : ∀ ph, receivePhase policy ph = true → legalPhase opc ph = true) (hw : Works s u)
    (hc : u.eng.consec = s.eng.consec) : Moves opc ph s (decodeHeader opc u) := by
  unfold decodeHeader
  split
  · exact .goto hw fun hr => hr.receive hopc hph (hlegal _ rfl) hc nofun
  · next dlc rtr hdlc =>
    exact .goto (hw.trans (.setWork _ u)) fun hr =>
      hr.receive hopc hph (hlegal _ rfl) hc fun _ => decodeControl_le hdlc

/-- Every phase of a base receive goes to a phase of it, but for its return. -/
theorem moves_receive (hopc : opc ≠ Opc.xmit)
    (hlegal : ∀ ph, receivePhase policy ph = true → legalPhase opc ph = true)
    (hreturn : ∀ r s, Moves opc (.ret r) s (onReturn r s))
    (h : receive opc policy onReturn ph s = .next t) : Moves opc ph s t := by
  obtain ⟨hph, rfl⟩ := receive_next h
  have next {u : State} {ph' : Phase} (hw : Works s u) (hc : u.eng.consec = s.eng.consec)
      (hph' : receivePhase policy ph' = true) (hne : ph ≠ .line 0)
      (hwork : s.Ready opc ph → decodedPhase ph' = true → u.eng.work.dataLength.toNat ≤ 8) :
      Moves opc ph s (goto opc ph' u) :=
    .goto hw fun hr => hr.receive hopc hne (hlegal _ hph') hc (hwork hr)
  cases ph with
  | s0 =>
    simp only [receiveStep]
    split
    · exact next (.sampleStart s) rfl rfl nofun nofun
    · exact next (.refl s) rfl rfl nofun nofun
  | sp =>
    simp only [receiveStep, receivePoll]
    split
    · exact next (.poll s) rfl rfl nofun nofun
    · split
      · exact next (.poll s) rfl rfl nofun nofun
      · exact next (.poll s) rfl rfl nofun nofun
  | st =>
    simp only [receiveStep, receiveClock]
    split
    · exact next (.sampleClock s) rfl rfl nofun nofun
    · exact next (.sampleClock s) rfl rfl nofun nofun
  | sh k =>
    simp only [receiveStep]
    split
    · exact next (.readHeader k s) rfl rfl nofun nofun
    · exact moves_decodeHeader hopc nofun hlegal (.readHeader k s) rfl
  | sd =>
    exact next (.readPayload s) (by rw [readPayload_eng]) rfl nofun fun hr _ => by
      rw [readPayload_eng]
      exact hr.workLength rfl
  | sxc => exact next (.clearFlag _ s) rfl rfl nofun fun hr _ => hr.workLength rfl
  | sxb => exact next (.clearFlag _ s) rfl rfl nofun nofun
  | ret r => exact hreturn r s
  | line _ | th _ | td | tr | ts | ta | tc _ | fin _ => cases hph

end Receive

theorem moves_recvReturn (r : RxResult) (s : State) : Moves opc (.ret r) s (recvReturn r s) := by
  cases r with
  | frame => exact .finish (.commit s)
  | expired => exact .raise _ (.refl s)
  | badDlc => exact .raise _ (.refl s)

theorem moves_sniffReturn (r : RxResult) (s : State) : Moves opc (.ret r) s (sniffReturn r s) := by
  cases r with
  | frame => exact .finish (.commit s)
  | expired => exact .raise _ (.refl s)
  | badDlc => exact .raise _ (.refl s)

/-- RECVF starts a base receive anew with a count below FILTER_RETRIES (R190). -/
theorem ready_recvf_s0 (h : s.eng.consec.toNat < filterRetries) : s.Ready Opc.recvf .s0 where
  legal := rfl
  consec := h.le
  retries _ _ := h
  workLength := nofun
  xmitLength ho := absurd ho (by decide)

/-- RECVF counts an expired base receive, and gives up at FILTER_RETRIES (R191). -/
theorem moves_recvfExpired (s : State) : Moves Opc.recvf (.ret .expired) s (recvfExpired s) := by
  have hworks : Works s (setConsec (s.eng.consec + 1) s) := .setConsec _ s
  unfold recvfExpired
  dsimp only
  split
  · refine .raise _ ⟨hworks.toKeeps, fun hr => ?_, fun _ => .inl rfl⟩
    have hlt : s.eng.consec.toNat < 8 := hr.retries rfl nofun
    show (s.eng.consec + 1).toNat ≤ 8
    rw [BitVec.toNat_add_of_lt (by simp; omega)]
    exact hlt
  · next hlt => exact .goto hworks fun _ => ready_recvf_s0 (Nat.not_le.mp hlt)

/-- RECVF delivers a frame that matches, and consumes any other (R192, R193). -/
theorem moves_recvfFrame (s : State) : Moves Opc.recvf (.ret .frame) s (recvfFrame s) := by
  unfold recvfFrame
  split
  · exact .finish (.commit s)
  · exact .goto (.setConsec 0 s) fun _ => ready_recvf_s0 (Nat.zero_lt_succ 7)

theorem moves_recvfReturn (r : RxResult) (s : State) : Moves Opc.recvf (.ret r) s (recvfReturn r s) := by
  cases r with
  | frame => exact moves_recvfFrame s
  | expired => exact moves_recvfExpired s
  | badDlc => exact .raise _ (.refl s)

/-! ### XMIT (R194) -/

theorem moves_xmitCheck (s : State) : Moves Opc.xmit .s0 s (xmitCheck s) := by
  unfold xmitCheck
  split
  · exact .raise _ (.refl s)
  · next hgood =>
    have hlen : s.host.frame.dataLength.toNat ≤ 8 := by
      simpa [Frame.badLength, BitVec.le_def] using hgood
    exact .goto (.refl s) fun hr => hr.xmit rfl rfl hlen

theorem moves_xmitFinish (w : Wait) (s : State) : Moves opc ph s (xmitFinish w s) := by
  cases w with
  | set => exact .finish (.refl s)
  | expired => exact .raise _ (.refl s)

/-- Every phase of XMIT after S0 goes to a phase of it with the frame that S0 checked, but for its completion. -/
theorem moves_xmitBody (h : xmitBody ph s = .next t) : Moves Opc.xmit ph s t := by
  obtain ⟨hph, rfl⟩ := xmitBody_next h
  have next {u : State} {ph' : Phase} (hw : Works s u) (hc : u.eng.consec = s.eng.consec)
      (hph' : xmitPhase ph' = true) (hne : ph ≠ .s0) : Moves Opc.xmit ph s (goto Opc.xmit ph' u) :=
    .goto hw fun hr => hr.xmit hph' hc (hw.host ▸ hr.xmitLength rfl hne)
  cases ph with
  | s0 => exact moves_xmitCheck s
  | th k =>
    simp only [xmitStep]
    split
    · exact next (.writeHeader k s) rfl rfl nofun
    · exact next (.writeHeader k s) rfl rfl nofun
  | td => exact next (.writePayload s) (by rw [writePayload_eng]) rfl nofun
  | tr => exact next (.writeBit _ _ _ s) rfl rfl nofun
  | ts => exact next (.sampleStart s) rfl rfl nofun
  | sp =>
    simp only [xmitStep, xmitPoll]
    split
    · exact next (.poll s) rfl rfl nofun
    · exact next (.poll s) rfl rfl nofun
  | st =>
    simp only [xmitStep, xmitClock]
    split
    · exact next (.sampleClock s) rfl rfl nofun
    · exact next (.sampleClock s) rfl rfl nofun
  | ta => exact next (.writeBit _ _ _ s) rfl rfl nofun
  | tc w => exact next (.clearFlag _ s) rfl rfl nofun
  | fin w => exact moves_xmitFinish w s
  | line _ | sh _ | sd | sxc | sxb | ret _ => cases hph

/-! ### Every command -/

/-- Everything a command of an opcode can do: its acceptance by an idle engine (R212), a step from its phase, or nothing
where another command runs (R62). -/
inductive Runs (opc : Byte) (s : State) : State → Prop
  | accept : Runs opc s (accept (cmdWord opc) s)
  | move {ph : Phase} {t : State} (hs : s.at opc ph) (h : Moves opc ph s t) : Runs opc s t
  | ignored : Runs opc s s

theorem command_runs {body : Phase → State → Outcome}
    (hbody : ∀ ph t, body ph s = .next t → Moves opc ph s t) (h : command opc body s = .next t) : Runs opc s t := by
  obtain ⟨-, rfl⟩ | ⟨ph, hs, hb⟩ | ⟨-, -, -, -, rfl⟩ := command_next h
  · exact .accept
  · exact .move hs (hbody ph t hb)
  · exact .ignored

theorem runs_straightLine {ops : List (State → State)} {complete : State → State}
    (h : command opc (straightLine opc ops complete) s = .next t) (hops : ops.Forall IsOp)
    (hcomplete : ∀ ph s, Moves opc ph s (complete s)) (hopc : opc ∉ [Opc.recvf, Opc.xmit] := by decide)
    (hline : ∀ k, k ≤ ops.length → legalPhase opc (.line k) = true := by exact fun _ => decide_eq_true) :
    Runs opc s t :=
  command_runs (fun _ _ hb => moves_straightLine hb hops hcomplete hopc hline) h

/-- SETBAUD writes the three timing registers of a supported rate, and rejects any other (R158). -/
theorem execSetbaud_runs (h : execSetbaud s = .next t) : Runs Opc.setbaud s t := by
  refine command_runs (fun ph t hb => ?_) h
  split at hb
  · cases hb
    exact .raise _ (.refl s)
  · exact moves_straightLine hb trivial moves_finish (by decide) fun _ hk =>
      decide_eq_true (hk.trans (Nat.zero_le 3))
  · next timing _ =>
    have hop (a : State → Byte) (b : Byte) : IsOp fun s => writeTiming (a s) b s :=
      isOp_writeRegister (fun s => s.ctl.mode == some .configuration) a fun _ => b
    exact moves_straightLine hb ⟨hop (·.cfg.aCnf1) _, hop (·.cfg.aCnf2) _, hop (·.cfg.aCnf3) _⟩ moves_finish (by decide)
      fun _ => decide_eq_true

/-- RECVF sets its count to 0, and then runs its base receives (R190). -/
theorem execRecvf_runs (h : execRecvf s = .next t) : Runs Opc.recvf s t := by
  refine command_runs (fun ph t hb => ?_) h
  split at hb
  · cases hb
    exact .goto (.setConsec 0 s) fun _ => ready_recvf_s0 (Nat.zero_lt_succ 7)
  · exact moves_receive (by decide) (fun ph hph => Bool.or_eq_true_iff.mpr (.inr hph)) moves_recvfReturn hb

/-- An opcode is the one of its command's row (R81). -/
theorem decodeOpc_eq_rowMatch {i : Instr} (hi : decodeOpc opc = some i) : opc = Laws.Lead.rowMatch i := by
  have hrow := decodeOpc_mem hi
  have htable : ∀ row ∈ cmdTable, row.1 = Laws.Lead.rowMatch row.2 := by decide
  exact htable _ hrow

/-- Every row of the opcode table runs as a command of its opcode (R81). -/
theorem exec_runs {i : Instr} (hi : decodeOpc opc = some i) (h : exec i s = .next t) : Runs opc s t := by
  obtain rfl := decodeOpc_eq_rowMatch hi
  have hstatus : IsOp readStatus := isOp_readLatch (·.cfg.aStat)
  cases i with
  | encid => exact runs_straightLine h trivial moves_encidStep
  | decid => exact runs_straightLine h trivial moves_decidStep
  | encctl => exact runs_straightLine h trivial moves_encctlStep
  | decctl => exact runs_straightLine h trivial moves_decctlStep
  | rdreg => exact runs_straightLine h (isOp_readLatch (·.host.regAddr)) fun _ s => .finish (.setResult _ _ s)
  | wrreg =>
    have hop := isOp_writeRegister (fun s => Config.honoured s.env.draws) (·.host.regAddr) (·.host.regData)
    exact runs_straightLine h hop moves_finish
  | wrbit =>
    exact runs_straightLine h (isOp_writeBit (·.host.regAddr) (·.host.regBit.idx) (·.host.regBit.val)) moves_finish
  | creset => exact runs_straightLine h isOp_ctlReset moves_finish
  | mnormal =>
    have hctrl := isOp_memWrite (·.cfg.aCtrl) (·.cfg.reqNormal)
    have hintf := isOp_memWrite (·.cfg.aIntf) fun _ => 0x00
    have hinte := isOp_writeBit (·.cfg.aInte) (·.cfg.wakieBit) fun _ => false
    exact runs_straightLine h ⟨hctrl, hintf, hinte, hstatus⟩ (moves_confirm codeNormal)
  | mrxonly =>
    have hctrl := isOp_memWrite (·.cfg.aCtrl) (·.cfg.reqReceiveOnly)
    exact runs_straightLine h ⟨hctrl, hstatus⟩ (moves_confirm codeReceiveOnly)
  | msleep =>
    have hinte := isOp_writeBit (·.cfg.aInte) (·.cfg.wakieBit) fun _ => true
    have hctrl := isOp_memWrite (·.cfg.aCtrl) (·.cfg.reqSleep)
    exact runs_straightLine h ⟨hinte, hctrl, hstatus⟩ (moves_confirm codeSleep)
  | awake => exact runs_straightLine h hstatus fun _ s => .finish (.setResult _ _ s)
  | setbaud => exact execSetbaud_runs h
  | recv => exact command_runs (fun _ _ => moves_receive (by decide) (fun _ hph => hph) moves_recvReturn) h
  | sniff => exact command_runs (fun _ _ => moves_receive (by decide) (fun _ hph => hph) moves_sniffReturn) h
  | recvf => exact execRecvf_runs h
  | xmit => exact command_runs (fun _ _ => moves_xmitBody) h
  | ctlReset | ctlRead | ctlWrite | ctlBitmod | ctlReadRxBuffer | ctlLoadTxBuffer | ctlRequestToSend | ctlReadStatus =>
    cases hi

end Sys2Proof.Machine
end

section
/-!
SUPPORT. What every step of the machine does: it keeps the invariant, real time does not go back, and the parameters stay;
and a command never leaves a data length above 8.
-/
namespace Sys2Proof.Machine

variable {s t : State}

/-! ### The invariant of an idle engine and of a running one -/

theorem Status.failed_legal (e : CmdError) : (Status.failed e).legal = true := by cases e <;> rfl

/-- The invariant of a state whose engine is idle. -/
theorem inv_of_idle (hs : s.Sound) (hidle : s.eng.fsm = .idle) (hlegal : s.host.status.legal = true)
    (hbusy : s.host.status.busy = false) (hc : s.eng.consec.toNat ≤ 8) : s.Inv where
  params := hs.params
  status := hlegal
  busy := by rw [hbusy, hidle]; rfl
  control opc ph hrun := by rw [hidle] at hrun; cases hrun
  timeout := hs.timeout
  start := hs.start
  consec := hc
  retries ph hrun := by rw [hidle] at hrun; cases hrun
  workLength opc ph hrun := by rw [hidle] at hrun; cases hrun
  xmitLength ph hrun := by rw [hidle] at hrun; cases hrun
  memory := hs.memory
  trace := hs.trace

/-- The invariant of a state whose engine goes to a phase of the command that CMD names. -/
theorem inv_goto {opc : Byte} {ph : Phase} (hs : s.Sound) (hlegal : s.host.status.legal = true)
    (hbusy : s.host.status.busy = true) (hcmd : s.host.cmd = opc) (hr : s.Ready opc ph) : (goto opc ph s).Inv where
  params := hs.params
  status := hlegal
  busy := hbusy
  control o p hrun := by
    obtain ⟨rfl, rfl⟩ := Fsm.run.inj hrun
    exact ⟨hcmd, hr.legal⟩
  timeout := hs.timeout
  start := hs.start
  consec := hr.consec
  retries p hrun := by
    obtain ⟨ho, rfl⟩ := Fsm.run.inj hrun
    exact hr.retries ho
  workLength o p hrun := by
    obtain ⟨-, rfl⟩ := Fsm.run.inj hrun
    exact hr.workLength
  xmitLength p hrun := by
    obtain ⟨ho, rfl⟩ := Fsm.run.inj hrun
    exact hr.xmitLength ho
  memory := hs.memory
  trace := hs.trace

/-- A completion leaves the engine idle with a legal STATUS (R213). -/
theorem inv_finish (hs : s.Sound) (hc : s.eng.consec.toNat ≤ 8) : (finish s).Inv :=
  inv_of_idle ((Keeps.finish s).sound hs) rfl rfl rfl hc

theorem inv_raise (e : CmdError) (hs : s.Sound) (hc : s.eng.consec.toNat ≤ 8) : (raise e s).Inv :=
  inv_of_idle ((Keeps.raise e s).sound hs) rfl (Status.failed_legal e) rfl hc

/-- The first phase of a command, or of an illegal opcode, is a phase of its own (R212). -/
theorem firstPhase_legal (opc : Byte) : legalPhase opc (firstPhase opc) = true := by revert opc; decide

/-- A command is accepted at a phase that asks for nothing of the state but the bound of E.consec (R212). -/
theorem ready_firstPhase (opc : Byte) (hc : s.eng.consec.toNat ≤ 8) : s.Ready opc (firstPhase opc) where
  legal := firstPhase_legal opc
  consec := hc
  retries ho hne := absurd (ho ▸ rfl) hne
  workLength hd := by
    have hnone : ∀ o, decodedPhase (firstPhase o) = false := by decide
    rw [hnone] at hd
    cases hd
  xmitLength ho hne := absurd (ho ▸ rfl) hne

theorem inv_accept (w : Word) (hs : s.Sound) (hc : s.eng.consec.toNat ≤ 8) : (accept w s).Inv :=
  inv_goto (s := { s with host := (accept w s).host }) ⟨hs.params, hs.timeout, hs.start, hs.memory, hs.trace⟩
    rfl rfl rfl (ready_firstPhase (opcOfWord w) hc)

/-- Work that moves no latch keeps the invariant. -/
theorem Works.inv (hw : Works s t) (heng : t.eng = s.eng) (h : s.Inv) : t.Inv := by
  have hs := hw.sound h.sound
  exact
    { params := hs.params
      status := hw.host ▸ h.status
      busy := by rw [hw.host, heng, h.busy]
      control := hw.host ▸ heng ▸ h.control
      timeout := hs.timeout
      start := hs.start
      consec := heng ▸ h.consec
      retries := heng ▸ h.retries
      workLength := heng ▸ h.workLength
      xmitLength := hw.host ▸ heng ▸ h.xmitLength
      memory := hs.memory
      trace := hs.trace }

/-! ### Instructions -/

/-- What a step does, whoever moves. -/
structure Advances (s t : State) : Prop extends Keeps s t where
  inv : s.Inv → t.Inv

theorem Advances.of_works (hw : Works s t) (heng : t.eng = s.eng) : Advances s t := ⟨hw.toKeeps, hw.inv heng⟩

theorem Advances.trans {u : State} (h : Advances s t) (h' : Advances t u) : Advances s u :=
  ⟨h.toKeeps.trans h'.toKeeps, h'.inv ∘ h.inv⟩

theorem Advances.accept (w : Word) (s : State) : Advances s (accept w s) :=
  ⟨.accept w s, fun h => inv_accept w h.sound h.consec⟩

/-- A step of a running command leaves it at a phase of its own, or completes it. -/
theorem Moves.advances {opc : Byte} {ph : Phase} (h : Moves opc ph s t) (hat : s.at opc ph) : Advances s t := by
  cases h with
  | @goto ph' u hw hr =>
    refine ⟨hw.toKeeps.trans (.goto opc ph' u), fun hs => ?_⟩
    have hbusy : u.host.status.busy = true := by rw [hw.host, hs.busy, hat]; rfl
    have hcmd : u.host.cmd = opc := by rw [hw.host, (hs.control opc ph hat).1]
    exact inv_goto (hw.sound hs.sound) (hw.host ▸ hs.status) hbusy hcmd (hr (hs.ready hat))
  | @finish u he =>
    exact ⟨he.toKeeps.trans (.finish u), fun hs => inv_finish (he.sound hs.sound) (he.consec (hs.ready hat))⟩
  | @raise e u he =>
    exact ⟨he.toKeeps.trans (.raise e u), fun hs => inv_raise e (he.sound hs.sound) (he.consec (hs.ready hat))⟩

theorem Runs.advances {opc : Byte} (h : Runs opc s t) : Advances s t := by
  cases h with
  | accept => exact .accept _ s
  | move hat hm => exact hm.advances hat
  | ignored => exact .of_works (.refl s) rfl

/-- An instruction is the command of an opcode, or a transport command: that one moves neither host registers nor latches,
and its transaction is one that the block may emit when it is well-formed. -/
theorem exec_command_or_transport {i : Instr} (h : exec i s = .next t) :
    (∃ opc, decodeOpc opc = some i) ∨ (t.host = s.host ∧ t.eng = s.eng ∧ (i.wf = true → Works s t)) := by
  have hcommand (hi : decodeOpc (Laws.Lead.rowMatch i) = some i) :
      (∃ opc, decodeOpc opc = some i) ∨ (t.host = s.host ∧ t.eng = s.eng ∧ (i.wf = true → Works s t)) := .inl ⟨_, hi⟩
  cases i with
  | ctlReset =>
    cases h
    exact .inr ⟨rfl, rfl, fun _ => .ctlReset s⟩
  | ctlRead addr n =>
    cases h
    exact .inr ⟨rfl, rfl, fun hwf => .memRead addr (of_decide_eq_true hwf) s⟩
  | ctlWrite addr data =>
    cases h
    exact .inr ⟨rfl, rfl, fun hwf => .memWrite addr (List.ne_nil_of_length_pos (of_decide_eq_true hwf)) s⟩
  | ctlBitmod addr mask value =>
    cases h
    exact .inr ⟨rfl, rfl, fun _ => .bitMod addr mask value s⟩
  | ctlReadRxBuffer | ctlLoadTxBuffer | ctlRequestToSend | ctlReadStatus => cases h
  | encid | decid | encctl | decctl | rdreg | wrreg | wrbit | creset | mnormal | mrxonly | msleep | awake | setbaud |
    recv | sniff | recvf | xmit => exact hcommand rfl

theorem exec_advances {i : Instr} (hwf : i.wf = true) (h : exec i s = .next t) : Advances s t := by
  obtain ⟨opc, hi⟩ | ⟨-, heng, hworks⟩ := exec_command_or_transport h
  · exact (exec_runs hi h).advances
  · exact .of_works (hworks hwf) heng

theorem Moves.dataLength {opc : Byte} {ph : Phase} (h : Moves opc ph s t) (hr : s.Ready opc ph) :
    t.host.frame.dataLength = s.host.frame.dataLength ∨ t.host.frame.dataLength.toNat ≤ 8 := by
  cases h with
  | goto hw => exact .inl (congrArg (·.frame.dataLength) hw.host)
  | finish he => exact he.dataLength hr
  | raise e he => exact he.dataLength hr

/-- Settles O54: only a decoded control byte is ever written to DLC, and the decode rejects a length above 8. -/
theorem commandsKeepDataLengthBound : Obligations.CommandsKeepDataLengthBound := by
  intro i s t hs h _
  obtain ⟨opc, hi⟩ | ⟨hhost, -, -⟩ := exec_command_or_transport h
  · cases exec_runs hi h with
    | accept => exact .inl rfl
    | move hat hm => exact hm.dataLength (hs.ready hat)
    | ignored => exact .inl rfl
  · exact .inl (congrArg (·.frame.dataLength) hhost)

/-! ### Whoever moves -/

/-- The commands of the opcode table carry no fields that could be ill-formed. -/
theorem wf_of_decodeOpc {opc : Byte} {i : Instr} (hi : decodeOpc opc = some i) : i.wf = true := by
  have htable : ∀ row ∈ cmdTable, row.2.wf = true := by decide
  exact htable _ (decodeOpc_mem hi)

theorem engineStep_advances (h : engineStep s = .next t) : Advances s t := by
  unfold engineStep at h
  split at h
  · cases h
    exact .of_works (.refl s) rfl
  · split at h
    · next i hi => exact exec_advances (wf_of_decodeOpc hi) h
    · cases h
      exact ⟨.raise _ s, fun hs => inv_raise _ hs.sound hs.consec⟩

theorem wf_of_decodeRead {rest : List Byte} {i : Instr} (h : decodeRead rest = .ok i) : i.wf = true := by
  unfold decodeRead at h
  split at h
  · split at h
    · cases h
      simp [Instr.wf]
    · cases h
  · cases h

theorem wf_of_decodeWrite {rest : List Byte} {i : Instr} (h : decodeWrite rest = .ok i) : i.wf = true := by
  unfold decodeWrite at h
  split at h
  · cases h
    simp [Instr.wf]
  · cases h

theorem wf_of_decodeBitmod {rest : List Byte} {i : Instr} (h : decodeBitmod rest = .ok i) : i.wf = true := by
  unfold decodeBitmod at h
  split at h
  · cases h
    rfl
  · cases h

theorem wf_of_decodeReset {rest : List Byte} {i : Instr} (h : decodeReset rest = .ok i) : i.wf = true := by
  unfold decodeReset at h
  split at h
  · cases h
    rfl
  · cases h

/-- A transaction that decodes moves at least one byte where its layout has data (R83). -/
theorem wf_of_decodeXact {bytes : List Byte} {i : Instr} (h : decodeXact bytes = .ok i) : i.wf = true := by
  cases bytes with
  | nil => cases h
  | cons b rest =>
    simp only [decodeXact] at h
    split_ifs at h
    case pos => exact wf_of_decodeReset h
    case pos => exact wf_of_decodeRead h
    case pos => exact wf_of_decodeWrite h
    case pos => exact wf_of_decodeBitmod h
    all_goals
      cases h
      rfl

theorem portStep_advances {bytes : List Byte} (h : portStep bytes s = .next t) : Advances s t := by
  unfold portStep at h
  split at h
  · next i hi => exact exec_advances (wf_of_decodeXact hi) h
  · cases h

@[simp] theorem HostRegs.write_status (w : Nat) (h : HostRegs) (r : HostReg) (v : Word) :
    (h.write w r v).status = h.status := by cases r <;> rfl

/-- A host write leaves TIMEOUT with its W bits (R25). -/
theorem HostRegs.write_timeout_lt {w : Nat} (hw : w ≤ 32) (h : HostRegs) (r : HostReg) (v : Word)
    (ht : h.timeout.toNat < 2 ^ w) : (h.write w r v).timeout.toNat < 2 ^ w := by
  cases r with
  | timeout => exact lowBits_lt w hw v
  | _ => exact ht

/-- A host write of an idle block accepts a command, or writes an operand register (R61, R212). -/
theorem hostWriteIdle_advances (offset : Nat) (v : Word) (hbusy : s.host.status.busy = false) :
    Advances s (hostWriteIdle offset v s) := by
  unfold hostWriteIdle
  split
  · exact .of_works (.refl s) rfl
  · next r _ =>
    split
    · exact .accept v s
    · have hk : Keeps s { s with host := s.host.write s.cfg.clockWidth r v } :=
        .of_host s fun hs => s.host.write_timeout_lt (Params.wf_width hs.params).2 r v hs.timeout
      refine ⟨hk, fun hs => inv_of_idle (hk.sound hs.sound) ?idle ?legal ?busy hs.consec⟩
      case idle =>
        have hrun := hs.busy.symm.trans hbusy
        cases hfsm : s.eng.fsm with
        | idle => rfl
        | run => rw [hfsm] at hrun; cases hrun
      case legal => rw [HostRegs.write_status]; exact hs.status
      case busy => rw [HostRegs.write_status]; exact hbusy

theorem hostWrite_advances {offset width : Nat} {v : Word} (h : hostWrite offset width v s = .next t) :
    Advances s t := by
  unfold hostWrite at h
  split at h
  · cases h
    split
    · exact .of_works (.refl s) rfl
    · next hbusy => exact hostWriteIdle_advances offset v (Bool.eq_false_iff.mpr hbusy)
  · cases h

theorem hostRead_advances {offset width : Nat} (h : hostRead offset width s = .next t) : Advances s t := by
  unfold hostRead at h
  split at h
  · cases h
    exact .of_works (.of_env s le_rfl rfl) rfl
  · cases h

theorem hostWait_advances (s : State) : Advances s (hostWait s) := by
  unfold hostWait
  dsimp only
  split
  · exact .of_works (.of_env s le_rfl rfl) rfl
  · exact .of_works (.of_env s le_rfl rfl) rfl

theorem blockReset_advances (s : State) : Advances s (blockReset s) :=
  ⟨.blockReset s, fun hs => inv_of_idle ((Keeps.blockReset s).sound hs.sound) rfl rfl rfl (Nat.zero_le 8)⟩

theorem inputStep_advances {i : Input} (h : inputStep i s = .next t) : Advances s t := by
  cases i with
  | read => exact hostRead_advances h
  | write => exact hostWrite_advances h
  | wait =>
    cases h
    exact hostWait_advances s
  | engine => exact engineStep_advances h
  | blockReset =>
    cases h
    exact blockReset_advances s
  | controllerPowerOn =>
    cases h
    exact .of_works (.controllerPowerOn s) rfl

/-- Every step of the machine. -/
theorem step_advances (h : step s = .next t) : Advances s t := by
  unfold step at h
  split at h
  · exact (Advances.of_works (.clearPort s) rfl).trans (portStep_advances h)
  · split at h
    · exact engineStep_advances h
    · next rest _ => exact (Advances.of_works (.setInputs rest s) rfl).trans (inputStep_advances h)

/-- Settles O59: every agent's step advances the machine within the invariant. -/
theorem everyStepKeepsTheInvariant : Obligations.EveryStepKeepsTheInvariant :=
  fun _ _ hs h => (step_advances h).inv hs

/-- Settles O57: no step takes real time back or touches the parameters. -/
theorem clockAdvancesAndParametersStay : Obligations.ClockAdvancesAndParametersStay :=
  fun _ _ h => ⟨(step_advances h).now, (step_advances h).cfg⟩

/-- Settles O58: the engine is idle after reset, and every latch and register is 0. -/
theorem resetMeetsTheInvariant : Obligations.ResetMeetsTheInvariant := by
  have hsound : State.reset.Sound := ⟨rfl, Nat.two_pow_pos 32, Nat.two_pow_pos 32, rfl, nofun⟩
  exact inv_of_idle hsound rfl rfl rfl (Nat.zero_le 8)

end Sys2Proof.Machine
end

section
/-!
SUPPORT. The host register map: what an operand register reads after a host write (10_state.md R22 to R34).
-/
namespace Sys2Proof.Machine

/-! ### Fields of a word -/

/-- The low `n` bits of a word as a register of 32 bits. -/
theorem setWidth_extractLsb'_low {n : Nat} (hn : n ≤ 32) (v : Word) :
    (v.extractLsb' 0 n).setWidth 32 = v &&& BitVec.ofNat 32 (2 ^ n - 1) := by
  apply BitVec.eq_of_toNat_eq
  have hlt : v.toNat % 2 ^ n < 2 ^ 32 :=
    (Nat.mod_lt _ (Nat.two_pow_pos n)).trans_le (Nat.pow_le_pow_right (by decide) hn)
  calc ((v.extractLsb' 0 n).setWidth 32).toNat
    _ = v.toNat % 2 ^ n := by
      rw [BitVec.toNat_setWidth, BitVec.extractLsb'_toNat, Nat.shiftRight_zero, Nat.mod_eq_of_lt hlt]
    _ = (v &&& BitVec.ofNat 32 (2 ^ n - 1)).toNat := (lowBits_toNat n hn v).symm

/-- A flag of a word, in its place. -/
theorem flagBit_getLsbD (k : Nat) (v : Word) : flagBit k (v.getLsbD k) = v &&& (1 : Word) <<< k := by
  rw [flagBit, show (1 : Word) <<< k = BitVec.twoPow 32 k from rfl, BitVec.and_twoPow]
  rfl

/-- The four lanes of a word are the word. -/
theorem lanes_lane (v : Word) : lanes (lane v 0) (lane v 1) (lane v 2) (lane v 3) = v := by
  rw [lanes, lane, lane, lane, lane, BitVec.extractLsb'_append_extractLsb'_eq_extractLsb' (by decide),
    BitVec.extractLsb'_append_extractLsb'_eq_extractLsb' (by decide),
    BitVec.extractLsb'_append_extractLsb'_eq_extractLsb' (by decide)]
  exact BitVec.extractLsb'_eq_self

/-! ### Reads after a write -/

/-- The registers that a host write does not set: CMD by acceptance only, STATUS and RESULT not at all (R61, R212). -/
def HostReg.notOperands : List HostReg := [.cmd, .status, .result]

/-- The bits of an operand register that it implements (R22); TIMEOUT has W bits (R25). -/
def HostReg.implemented (w : Nat) : HostReg → Word
  | .timeout => BitVec.ofNat 32 (2 ^ w - 1)
  | .target | .frameId => 0x7FF
  | .baud => 0xFFFF
  | .regaddr | .regdata | .packdlc => 0xFF
  | .regbit => 0x107
  | .frameEid => 0x3FFFF
  | .frameCtl => 0x3F
  | .frameData0 | .frameData1 | .pack => 0xFFFFFFFF
  | .cmd | .status | .result => 0

/-- An operand register reads what was written, in the bits it implements (R22). -/
theorem HostRegs.read_write_same (w : Nat) (h : HostRegs) (v : Word) {r : HostReg} (hr : r ∉ HostReg.notOperands) :
    (h.write w r v).read r = v &&& r.implemented w := by
  have hlow {n : Nat} (hn : n ≤ 32) := setWidth_extractLsb'_low hn v
  have hlanes : lanes (lane v 0) (lane v 1) (lane v 2) (lane v 3) = v &&& 0xFFFFFFFF := by
    rw [lanes_lane]
    exact BitVec.and_allOnes.symm
  cases r with
  | timeout => rfl
  | target | frameId => exact hlow (n := 11) (by decide)
  | baud => exact hlow (n := 16) (by decide)
  | regaddr | regdata | packdlc => exact hlow (n := 8) (by decide)
  | frameEid => exact hlow (n := 18) (by decide)
  | regbit =>
    show (v.extractLsb' 0 3).setWidth 32 ||| flagBit 8 (v.getLsbD 8) = _
    rw [hlow (by decide), flagBit_getLsbD, ← BitVec.and_or_distrib_left]
    rfl
  | frameCtl =>
    show (v.extractLsb' 0 4).setWidth 32 ||| flagBit 4 (v.getLsbD 4) ||| flagBit 5 (v.getLsbD 5) = _
    rw [hlow (by decide), flagBit_getLsbD, flagBit_getLsbD, ← BitVec.and_or_distrib_left,
      ← BitVec.and_or_distrib_left]
    rfl
  | frameData0 | frameData1 | pack => exact hlanes
  | cmd | status | result => exact absurd (by decide) hr

/-- Each register has fields of its own, so that a write of one leaves what the others read (R22). -/
theorem HostRegs.read_write_other (w : Nat) (h : HostRegs) (v : Word) {r q : HostReg} (hq : q ≠ r) :
    (h.write w r v).read q = h.read q := by
  revert hq
  cases r <;> cases q <;> simp [HostRegs.write, HostRegs.read, Frame.ctlWord]

/-! ### The access -/

/-- Every register of R22 is found at its offset. -/
theorem HostReg.atOffset_offset (r : HostReg) : HostReg.atOffset r.offset = some r := by cases r <;> rfl

theorem HostReg.legalAccess_offset (r : HostReg) : legalAccess r.offset 32 = true := by cases r <;> rfl

/-- A host write of a register other than CMD is taken when the block is not BUSY (R61, R62). -/
theorem hostWrite_operand {s : State} {r : HostReg} (v : Word) (hr : r ≠ .cmd) (hb : s.host.status.busy = false) :
    hostWrite r.offset 32 v s = .next { s with host := s.host.write s.cfg.clockWidth r v } := by
  simp [hostWrite, hostWriteIdle, r.legalAccess_offset, r.atOffset_offset, hb, hr]

/-- Settles O45: the write is of one register of the map, whose implemented bits it sets. -/
theorem hostWriteReadsBack : Obligations.HostWriteReadsBack := by
  intro s r mask v rest _ hport hbusy hr hin
  obtain ⟨rfl, hoperand⟩ : mask = r.implemented s.cfg.clockWidth ∧ r ∉ HostReg.notOperands := by
    suffices h : ∀ p : HostReg × Word, p ∈ _ → p.2 = p.1.implemented s.cfg.clockWidth ∧ p.1 ∉ HostReg.notOperands from
      h (r, mask) hr
    simp [HostReg.implemented, HostReg.notOperands]
  have hcmd : r ≠ .cmd := fun he => hoperand (he ▸ List.mem_cons_self)
  exact ⟨_, (step_of_input hport hin).trans (hostWrite_operand (s := setInputs rest s) v hcmd hbusy),
    s.host.read_write_same _ v hoperand, fun q hq => s.host.read_write_other _ v hq, rfl, rfl, rfl, rfl⟩

end Sys2Proof.Machine
end

section
/-!
SUPPORT. The transactions of 20_memory.md R66 to R69, each as one statement: the bytes sent and received, and what the
controller's record holds afterwards.
-/
namespace Sys2Proof.Machine

/-! ### The controller's side of a burst -/

/-- A burst is the burst of its first bytes, and then that of the others from the address reached (R64). -/
theorem burst_append (f : Nat → Byte → Controller → Controller) (bs cs : List Byte) (a : Nat) (c : Controller)
    (ha : a < 256) : burst f a (bs ++ cs) c = burst f ((a + bs.length) % 256) cs (burst f a bs c) := by
  induction bs generalizing a c with
  | nil => simp [burst, Nat.mod_eq_of_lt ha]
  | cons b bs ih =>
    have haddr : ((a + 1) % 256 + bs.length) % 256 = (a + (bs.length + 1)) % 256 := by omega
    rw [List.cons_append, burst, ih _ _ (Nat.mod_lt _ (by decide)), haddr]
    rfl

/-- The last byte that a burst of any length has for an address is listed there (R66, R67). -/
theorem burst_read_last (f : Nat → Byte → Controller → Controller) (hf : ∀ a b c, (f a b c).cr = c.cr.write a b)
    {bs : List Byte} {k : Nat} (a : Byte) (c : Controller) (hk : k < bs.length) (hlast : bs.length ≤ k + 256) :
    (burst f a.toNat bs c).cr.read (burstAddr a k) = bs[k]? := by
  have hlen : (bs.take k).length = k := List.length_take_of_le hk.le
  have hrest := burst_read_at f hf (bs.drop k) (burstAddr a k) (burst f a.toNat (bs.take k) c) 0
    (by simpa using hk) (Nat.mod_lt _ (by decide)) (by rw [List.length_drop]; omega)
  have haddr : (burstAddr a k + 0) % 256 = burstAddr a k := Nat.mod_mod _ _
  conv_lhs => rw [← List.take_append_drop k bs, burst_append f _ _ _ _ a.isLt, hlen]
  rw [haddr] at hrest
  rw [← burstAddr, hrest, List.getElem_drop, ← List.getElem?_eq_getElem]
  rfl

/-! ### A read of n registers (R66) -/

/-- The bytes after the two slots of a read without data are the data bytes (R83). -/
theorem getElem?_slots_two_append (e : Env) (d : List Byte) (k : Nat) : (e.slots 2 ++ d)[k + 2]? = d[k]? := by
  rw [List.getElem?_append_right (by simp), slots_length, Nat.add_sub_cancel]

/-- Where the outside world gives enough answers, a read returns them in order (R70). -/
theorem readData_eq_take {s : State} {n : Nat} (hn : n ≤ s.env.answers.length) :
    readData n s = s.env.answers.take n := by
  refine List.ext_getElem (by simpa using hn) fun k hk _ => ?_
  have hkn : k < n := by simpa using hk
  rw [readData_getElem n s k hkn, answer_of_lt _ (hkn.trans_le hn), List.getElem_take]

/-- Settles O37: a read lists each byte at its address, and a byte of the status register gives the mode. -/
theorem readTransaction : Obligations.ReadTransaction := by
  intro s a n _
  have hlen : (readData n s).length = n := readData_length n s
  refine ⟨_, ⟨readBytes a n, s.env.slots 2 ++ readData n s⟩, rfl, rfl, rfl, rfl, rfl, rfl, ?length, ?answers, ?value,
    ?status, ?mode, (Transacts.memRead s fun k hk => ⟨k, hk, rfl⟩).regs⟩
  case length => simp [Nat.add_comm]
  case answers => exact fun hn => (List.drop_left' (slots_length _ 2)).trans (readData_eq_take hn)
  case value =>
    intro k hk hlast
    rw [getElem?_slots_two_append]
    exact burst_read_last _ (observe_cr _) a s.ctl (hlen.symm ▸ hk) (hlen.symm ▸ hlast)
  case status =>
    intro k b hk hlast haddr hb
    rw [getElem?_slots_two_append] at hb
    obtain ⟨hk', rfl⟩ := List.getElem?_eq_some_iff.mp hb
    exact burst_observe_mode_stat _ _ _ _ k hk' a.isLt (hlen.symm ▸ hlast) haddr
  case mode => exact fun h => burst_observe_mode_other _ _ _ _ a.isLt fun k hk => h k (hlen ▸ hk)

/-! ### A write of n bytes (R67) -/

/-- Settles O38: a write lists each byte at its address, and one of the control register leaves no mode known. -/
theorem writeTransaction : Obligations.WriteTransaction := by
  intro s a v _
  exact ⟨_, ⟨writeBytes a v, s.env.slots (v.length + 2)⟩, rfl, rfl, rfl, rfl, rfl, rfl, slots_length _ _,
    fun k hk hlast => burst_read_last _ (store_cr _) a s.ctl hk hlast,
    burst_store_mode_ctrl _ _ _ _ a.isLt,
    burst_store_mode_other _ _ _ _ a.isLt,
    (Transacts.memWrite s fun k hk => ⟨k, hk, rfl⟩).regs⟩

/-! ### A bit-modify (R68) -/

/-- Inside the mask a bit-modify leaves the bits of the value (R68). -/
theorem mergeBits_and_mask (held m v : Byte) : mergeBits held m v &&& m = v &&& m := by
  ext i hi
  simp only [mergeBits, BitVec.getElem_and, BitVec.getElem_or, BitVec.getElem_not]
  cases m[i] <;> simp

/-- Outside the mask a bit-modify leaves the bits that the controller holds (R68). -/
theorem mergeBits_and_not_mask (held m v : Byte) : mergeBits held m v &&& ~~~m = held &&& ~~~m := by
  ext i hi
  simp only [mergeBits, BitVec.getElem_and, BitVec.getElem_or, BitVec.getElem_not]
  cases m[i] <;> simp

/-- Settles O39: the merged byte is listed at the address. -/
theorem bitModifyTransaction : Obligations.BitModifyTransaction := by
  intro s a m v
  refine ⟨_, ⟨bitmodBytes a m v, s.env.slots 4⟩, _, rfl, rfl, rfl, rfl, rfl, rfl, slots_length _ _,
    Memory.read_write_same _ _ _, mergeBits_and_mask _ m v, mergeBits_and_not_mask _ m v, ?mode,
    fun x hx => Memory.read_write_other _ _ hx⟩
  case mode => simp only [bitMod_ctl, Controller.store, BitVec.toNat_inj]

/-! ### A controller reset, and the controller's power-on (R69, R53) -/

/-- Settles O40: both leave the controller at its power-on, and the reset alone is a transaction. -/
theorem resetTransaction : Obligations.ResetTransaction :=
  ⟨fun s => ⟨_, ⟨resetBytes, s.env.slots 1⟩, rfl, rfl, rfl, rfl, rfl, rfl, slots_length _ _, rfl, fun _ => rfl⟩,
    fun _ _ hport hin => ⟨_, step_of_input hport hin, rfl, rfl, rfl, rfl, rfl, fun _ => rfl⟩⟩

end Sys2Proof.Machine
end

section
/-!
SUPPORT. The host's accesses (20_memory.md R60 to R62): which are legal, what they read, and which writes are ignored.
-/
namespace Sys2Proof.Machine

theorem legalAccess_iff {offset width : Nat} :
    legalAccess offset width = true ↔ width = 32 ∧ offset % 4 = 0 ∧ offset < 256 := by
  simp [legalAccess, and_assoc]

/-- A legal read returns the register's value and has no side effect (R61, R62). -/
theorem hostRead_legal {offset width : Nat} (h : legalAccess offset width = true) (s : State) :
    hostRead offset width s = .next { s with env := { s.env with rdata := hostValue offset s } } := by
  rw [hostRead, if_pos h]

theorem hostRead_illegal {offset width : Nat} (h : ¬ legalAccess offset width = true) (s : State) :
    hostRead offset width s = .refused .hostAccessOutsideInterface := by
  rw [hostRead, if_neg h]

theorem hostWrite_illegal {offset width : Nat} (h : ¬ legalAccess offset width = true) (v : Word) (s : State) :
    hostWrite offset width v s = .refused .hostAccessOutsideInterface := by
  rw [hostWrite, if_neg h]

/-- A legal write is ignored while BUSY = 1 (R62). -/
theorem hostWrite_busy {offset width : Nat} (h : legalAccess offset width = true) (v : Word) {s : State}
    (hb : s.host.status.busy = true) : hostWrite offset width v s = .next s := by
  rw [hostWrite, if_pos h, if_pos hb]

/-- The offsets from 0x40 on are reserved (R22). -/
theorem HostReg.atOffset_reserved {offset : Nat} (h : 0x40 ≤ offset) : HostReg.atOffset offset = none := by
  have hall : ∀ r ∈ HostReg.all, r.offset < 0x40 := by decide
  refine List.find?_eq_none.mpr fun r hr he => ?_
  have hlt := hall r hr
  have heq : r.offset = offset := by simpa using he
  omega

/-- A read at a register's offset returns the register (R61). -/
theorem hostValue_offset (r : HostReg) (s : State) : hostValue r.offset s = s.host.read r := by
  simp only [hostValue, r.atOffset_offset]

/-- A read at a reserved offset returns 0 (R61). -/
theorem hostValue_reserved {offset : Nat} (h : 0x40 ≤ offset) (s : State) : hostValue offset s = 0 := by
  simp only [hostValue, HostReg.atOffset_reserved h]

/-- A write of a reserved offset, STATUS or RESULT is ignored by an idle block too (R61). -/
theorem hostWriteIdle_ignored {offset : Nat} (h : 0x40 ≤ offset ∨ offset = 0x04 ∨ offset = 0x20) (v : Word)
    (s : State) : hostWriteIdle offset v s = s := by
  obtain h | rfl | rfl := h
  · simp only [hostWriteIdle, HostReg.atOffset_reserved h]
  · rfl
  · rfl

/-- A legal write of a reserved offset, STATUS or RESULT is ignored, BUSY or not (R61, R62). -/
theorem hostWrite_ignored {offset width : Nat} (hl : legalAccess offset width = true)
    (h : 0x40 ≤ offset ∨ offset = 0x04 ∨ offset = 0x20) (v : Word) (s : State) :
    hostWrite offset width v s = .next s := by
  rw [hostWrite, if_pos hl, hostWriteIdle_ignored h, ite_self]

/-- Settles O43: an access is legal or refused; a legal read returns the register at its offset, and a legal write of a
register that is not writable is ignored. -/
theorem hostAccessRules : Obligations.HostAccessRules := by
  intro s offset width v rest hport
  rw [← legalAccess_iff]
  refine ⟨fun hin => ?read, fun hin => ?write⟩
  case read =>
    rw [step_of_input hport hin]
    refine ⟨fun hl => ⟨_, hostRead_legal hl _, ?register, fun hres => hostValue_reserved hres _⟩,
      fun hl => hostRead_illegal hl _⟩
    case register =>
      rintro r rfl
      exact hostValue_offset r _
  case write =>
    rw [step_of_input hport hin]
    exact ⟨fun hl hoff => hostWrite_ignored hl hoff v _, fun hl => hostWrite_illegal hl v _⟩

/-- Settles O44: a legal write of a BUSY block only uses up its input. -/
theorem hostWritesIgnoredWhileBusy : Obligations.HostWritesIgnoredWhileBusy :=
  fun s _ v rest hport hin halign hwindow hbusy =>
    (step_of_input hport hin).trans
      (hostWrite_busy (s := setInputs rest s) (legalAccess_iff.mpr ⟨rfl, halign, hwindow⟩) v hbusy)

end Sys2Proof.Machine
end

section
/-!
SUPPORT. What one step does to the trace and, while it leaves a command running, to the host registers (00_scope.md R17,
20_memory.md R62, R65): at most one transaction, which is never taken back, and no result before the completion.
-/
namespace Sys2Proof.Machine

/-- The trace is as it was, or has one more transaction in front (R65). -/
def ExtendsTrace (s t : State) : Prop := t.env.trace = s.env.trace ∨ ∃ x, t.env.trace = x :: s.env.trace

/-- Work of one step that does not complete a command: no host register is written, and at most one transaction made. -/
structure StepWork (s t : State) : Prop where
  host : t.host = s.host
  trace : ExtendsTrace s t

/-- Everything one step of an instruction can do: the acceptance by an idle engine (R212), work with at most one
transaction, or the completion, which makes none (R17, R213). -/
inductive Does (s : State) : State → Prop
  | accepts (w : Word) (hidle : s.eng.fsm = .idle) : Does s (accept w s)
  | works {t : State} (h : StepWork s t) : Does s t
  | completes {t : State} (hidle : t.eng.fsm = .idle) (htrace : t.env.trace = s.env.trace) : Does s t

section

variable {opc : Byte} {ph : Phase} {s t u : State}

/-! ### Work with and without a transaction -/

namespace StepWork

theorem silent (hhost : t.host = s.host) (htrace : t.env.trace = s.env.trace) : StepWork s t := ⟨hhost, .inl htrace⟩

theorem transaction {sent received : List Byte} {used : Nat} (hhost : t.host = s.host)
    (henv : t.env = s.env.record sent received used) : StepWork s t :=
  ⟨hhost, .inr ⟨⟨sent, received⟩, congrArg Env.trace henv⟩⟩

theorem memRead (a : Byte) (n : Nat) (s : State) : StepWork s (memRead a n s) := .transaction rfl rfl

theorem memWrite (a : Byte) (v : List Byte) (s : State) : StepWork s (memWrite a v s) := .transaction rfl rfl

theorem writeRegister (honoured : Bool) (a b : Byte) (s : State) : StepWork s (writeRegister honoured a b s) :=
  .transaction rfl rfl

theorem bitMod (a m v : Byte) (s : State) : StepWork s (bitMod a m v s) := .transaction rfl rfl

theorem writeBit (a : Byte) (idx : BitVec 3) (value : Bool) (s : State) : StepWork s (writeBit a idx value s) :=
  .bitMod a _ _ s

theorem ctlReset (s : State) : StepWork s (ctlReset s) := .transaction rfl rfl

theorem readLatch (a : Byte) (s : State) : StepWork s (readLatch a s) := .transaction rfl rfl

theorem readHeader (k : Fin 5) (s : State) : StepWork s (readHeader k s) := .transaction rfl rfl

/-- The payload burst is one transaction, or none for an empty payload (R178). -/
theorem readPayload (s : State) : StepWork s (readPayload s) := by
  unfold Machine.readPayload
  dsimp only
  split
  · exact .silent rfl rfl
  · exact .transaction rfl rfl

/-- The payload write is one transaction, or none for an empty payload (R194). -/
theorem writePayload (s : State) : StepWork s (writePayload s) := by
  unfold Machine.writePayload
  dsimp only
  split
  · exact .silent rfl rfl
  · exact .transaction rfl rfl

end StepWork

/-- The step of a phase does its work and goes to the next phase. -/
theorem StepWork.does_goto (h : StepWork s u) (opc : Byte) (ph : Phase) : Does s (goto opc ph u) :=
  .works ⟨h.host, h.trace⟩

/-! ### Procedures without labels -/

/-- A procedure without labels does one of its operations, or completes (R17). -/
theorem straightLine_does {ops : List (State → State)} {complete : State → State}
    (h : straightLine opc ops complete ph s = .next t) (hops : ops.Forall fun op => StepWork s (op s))
    (hcomplete : Does s (complete s)) : Does s t := by
  obtain ⟨k, op, -, hop, rfl⟩ | ⟨-, rfl⟩ := straightLine_next h
  · exact (List.forall_iff_forall_mem.mp hops op (List.mem_of_getElem? hop)).does_goto opc _
  · exact hcomplete

/-- ENCCTL completes, with success or with BAD_FRAME (R113). -/
theorem does_encctlStep (s : State) : Does s (encctlStep s) := by
  unfold encctlStep
  split <;> exact .completes rfl rfl

/-- DECCTL completes, with success or with BAD_DLC (R114). -/
theorem does_decctlStep (s : State) : Does s (decctlStep s) := by
  unfold decctlStep
  split <;> exact .completes rfl rfl

/-- The confirmation completes, with success or with MODE_FAILED (R150). -/
theorem does_confirm (code : BitVec 3) (s : State) : Does s (confirm code s) := by
  unfold confirm
  split <;> exact .completes rfl rfl

/-! ### The base receive (R180) -/

theorem StepWork.does_decodeHeader (h : StepWork s u) (opc : Byte) : Does s (decodeHeader opc u) := by
  unfold decodeHeader
  split
  · exact h.does_goto opc _
  · exact .works ⟨h.host, h.trace⟩

theorem receive_does {policy : Policy} {onReturn : RxResult → State → State}
    (hreturn : ∀ r s, Does s (onReturn r s)) (h : receive opc policy onReturn ph s = .next t) : Does s t := by
  obtain ⟨hph, rfl⟩ := receive_next h
  cases ph with
  | s0 =>
    simp only [receiveStep]
    split
    · exact .works (.silent rfl rfl)
    · exact .works (.silent rfl rfl)
  | sp =>
    simp only [receiveStep, receivePoll]
    split
    · exact (StepWork.memRead _ 1 s).does_goto opc _
    · split
      · exact (StepWork.memRead _ 1 s).does_goto opc _
      · exact (StepWork.memRead _ 1 s).does_goto opc _
  | st =>
    simp only [receiveStep, receiveClock]
    split
    · exact .works (.silent rfl rfl)
    · exact .works (.silent rfl rfl)
  | sh k =>
    simp only [receiveStep]
    split
    · exact (StepWork.readHeader k s).does_goto opc _
    · exact (StepWork.readHeader k s).does_decodeHeader opc
  | sd => exact (StepWork.readPayload s).does_goto opc _
  | sxc | sxb => exact (StepWork.writeBit _ _ _ s).does_goto opc _
  | ret r => exact hreturn r s
  | line _ | th _ | td | tr | ts | ta | tc _ | fin _ => cases hph

theorem does_recvReturn (r : RxResult) (s : State) : Does s (recvReturn r s) := by
  cases r <;> exact .completes rfl rfl

theorem does_sniffReturn (r : RxResult) (s : State) : Does s (sniffReturn r s) := by
  cases r <;> exact .completes rfl rfl

/-- RECVF completes, or begins its next base receive, without a transaction of its own (R190 to R193). -/
theorem does_recvfReturn (r : RxResult) (s : State) : Does s (recvfReturn r s) := by
  cases r with
  | expired =>
    simp only [recvfReturn, recvfExpired]
    split
    · exact .completes rfl rfl
    · exact .works (.silent rfl rfl)
  | badDlc => exact .completes rfl rfl
  | frame =>
    simp only [recvfReturn, recvfFrame]
    split
    · exact .completes rfl rfl
    · exact .works (.silent rfl rfl)

/-! ### XMIT (R194) -/

theorem xmitBody_does (h : xmitBody ph s = .next t) : Does s t := by
  obtain ⟨hph, rfl⟩ := xmitBody_next h
  cases ph with
  | s0 =>
    simp only [xmitStep, xmitCheck]
    split
    · exact .completes rfl rfl
    · exact .works (.silent rfl rfl)
  | th k =>
    simp only [xmitStep]
    split
    · exact (StepWork.memWrite _ _ s).does_goto _ _
    · exact (StepWork.memWrite _ _ s).does_goto _ _
  | td => exact (StepWork.writePayload s).does_goto _ _
  | tr | ta | tc => exact (StepWork.writeBit _ _ _ s).does_goto _ _
  | ts => exact .works (.silent rfl rfl)
  | sp =>
    simp only [xmitStep, xmitPoll]
    split
    · exact (StepWork.memRead _ 1 s).does_goto _ _
    · exact (StepWork.memRead _ 1 s).does_goto _ _
  | st =>
    simp only [xmitStep, xmitClock]
    split
    · exact .works (.silent rfl rfl)
    · exact .works (.silent rfl rfl)
  | fin w => cases w <;> exact .completes rfl rfl
  | line _ | sh _ | sd | sxc | sxb | ret _ => cases hph

/-! ### Every instruction -/

theorem command_does {body : Phase → State → Outcome} (hbody : ∀ ph, body ph s = .next t → Does s t)
    (h : command opc body s = .next t) : Does s t := by
  obtain ⟨hidle, rfl⟩ | ⟨ph, -, hb⟩ | ⟨-, -, -, -, rfl⟩ := command_next h
  · exact .accepts _ hidle
  · exact hbody ph hb
  · exact .works (.silent rfl rfl)

theorem command_straightLine_does {ops : List (State → State)} {complete : State → State}
    (h : command opc (straightLine opc ops complete) s = .next t) (hops : ops.Forall fun op => StepWork s (op s))
    (hcomplete : Does s (complete s)) : Does s t :=
  command_does (fun _ hb => straightLine_does hb hops hcomplete) h

/-- SETBAUD makes its three timing writes, or rejects an unsupported rate without a transaction (R158). -/
theorem execSetbaud_does (h : execSetbaud s = .next t) : Does s t := by
  refine command_does (fun ph hb => ?_) h
  split at hb
  · cases hb
    exact .completes rfl rfl
  · exact straightLine_does hb trivial (.completes rfl rfl)
  · exact straightLine_does hb ⟨.writeRegister .., .writeRegister .., .writeRegister ..⟩ (.completes rfl rfl)

/-- RECVF sets its count to 0, and then runs its base receives (R190). -/
theorem execRecvf_does (h : execRecvf s = .next t) : Does s t := by
  refine command_does (fun ph hb => ?_) h
  split at hb
  · cases hb
    exact .works (.silent rfl rfl)
  · exact receive_does does_recvfReturn hb

theorem exec_does {i : Instr} (h : exec i s = .next t) : Does s t := by
  cases i with
  | encid | decid => exact command_straightLine_does h trivial (.completes rfl rfl)
  | encctl => exact command_straightLine_does h trivial (does_encctlStep s)
  | decctl => exact command_straightLine_does h trivial (does_decctlStep s)
  | rdreg | awake => exact command_straightLine_does h (StepWork.readLatch ..) (.completes rfl rfl)
  | wrreg => exact command_straightLine_does h (StepWork.writeRegister ..) (.completes rfl rfl)
  | wrbit => exact command_straightLine_does h (StepWork.writeBit ..) (.completes rfl rfl)
  | creset => exact command_straightLine_does h (StepWork.ctlReset s) (.completes rfl rfl)
  | mnormal =>
    exact command_straightLine_does h ⟨.memWrite .., .memWrite .., .writeBit .., .readLatch ..⟩ (does_confirm _ s)
  | mrxonly => exact command_straightLine_does h ⟨.memWrite .., .readLatch ..⟩ (does_confirm _ s)
  | msleep => exact command_straightLine_does h ⟨.writeBit .., .memWrite .., .readLatch ..⟩ (does_confirm _ s)
  | setbaud => exact execSetbaud_does h
  | recv => exact command_does (fun _ => receive_does does_recvReturn) h
  | sniff => exact command_does (fun _ => receive_does does_sniffReturn) h
  | recvf => exact execRecvf_does h
  | xmit => exact command_does (fun _ => xmitBody_does) h
  | ctlReset =>
    cases h
    exact .works (.ctlReset s)
  | ctlRead addr n =>
    cases h
    exact .works (.memRead addr n s)
  | ctlWrite addr data =>
    cases h
    exact .works (.memWrite addr data s)
  | ctlBitmod addr mask value =>
    cases h
    exact .works (.bitMod addr mask value s)
  | ctlReadRxBuffer | ctlLoadTxBuffer | ctlRequestToSend | ctlReadStatus => cases h

theorem Does.extendsTrace (h : Does s t) : ExtendsTrace s t := by
  cases h with
  | accepts => exact .inl rfl
  | works hw => exact hw.trace
  | completes _ htrace => exact .inl htrace

/-! ### Whoever moves -/

theorem engineStep_extendsTrace (h : engineStep s = .next t) : ExtendsTrace s t := by
  unfold engineStep at h
  split at h
  · cases h
    exact .inl rfl
  · split at h
    · exact (exec_does h).extendsTrace
    · cases h
      exact .inl rfl

theorem portStep_extendsTrace {bytes : List Byte} (h : portStep bytes s = .next t) : ExtendsTrace s t := by
  unfold portStep at h
  split at h
  · exact (exec_does h).extendsTrace
  · cases h

/-- A host read makes no transaction (R61). -/
theorem hostRead_trace {offset width : Nat} (h : hostRead offset width s = .next t) :
    t.env.trace = s.env.trace := by
  unfold hostRead at h
  split at h
  · cases h
    rfl
  · cases h

theorem hostWriteIdle_env (offset : Nat) (v : Word) (s : State) : (hostWriteIdle offset v s).env = s.env := by
  unfold hostWriteIdle
  split
  · rfl
  · split
    · rfl
    · rfl

/-- A host write makes no transaction, and an accepted command makes its first later (R212). -/
theorem hostWrite_trace {offset width : Nat} {v : Word} (h : hostWrite offset width v s = .next t) :
    t.env.trace = s.env.trace := by
  unfold hostWrite at h
  split at h
  · cases h
    split
    · rfl
    · rw [hostWriteIdle_env]
  · cases h

theorem hostWait_trace (s : State) : (hostWait s).env.trace = s.env.trace := by
  unfold hostWait
  dsimp only
  split
  · rfl
  · rfl

theorem inputStep_extendsTrace {i : Input} (h : inputStep i s = .next t) : ExtendsTrace s t := by
  cases i with
  | read => exact .inl (hostRead_trace h)
  | write => exact .inl (hostWrite_trace h)
  | wait =>
    cases h
    exact .inl (hostWait_trace s)
  | engine => exact engineStep_extendsTrace h
  | blockReset | controllerPowerOn =>
    cases h
    exact .inl rfl

end

/-- Settles O51: the acceptance needs an idle engine, and the completion leaves one. -/
theorem runningStepsWriteNoHostRegister : Obligations.RunningStepsWriteNoHostRegister := by
  intro i s t h hs ht
  cases exec_does h with
  | accepts _ hidle => rw [hidle] at hs; cases hs
  | works hw => exact hw.host
  | completes hidle => rw [hidle] at ht; cases ht

/-- Settles O55: whoever moves makes at most one transaction. -/
theorem oneTransactionPerStep : Obligations.OneTransactionPerStep := by
  intro s t h
  unfold step at h
  split at h
  · exact portStep_extendsTrace (s := clearPort s) h
  · split at h
    · exact engineStep_extendsTrace h
    · next rest _ => exact inputStep_extendsTrace (s := setInputs rest s) h

end Sys2Proof.Machine
end

section
/-!
SUPPORT. The encodings (30_encoding.md R80 to R84): decoding the code of an instruction, the inverse of each transaction
layout, and the command words that name no command; and the line wait of host programs (R93).
-/
namespace Sys2Proof.Machine

/-! ### Command words (R80, R81, R84) -/

/-- An instruction whose code is the word of an opcode is decoded by the opcode's row (R80, R81). -/
theorem decode_encode_of_cmdWord {opc : Byte} {i : Instr} (hcode : encode i = .cmd (cmdWord opc))
    (hrow : decodeOpc opc = some i) : decode (encode i) = .ok i := by
  simp only [hcode, decode, decodeCmd, opcOfWord_cmdWord, hrow]

/-- A command word is rejected exactly when its opcode is in no row of the table (R84). -/
theorem decodeCmd_reject_iff (w : Word) : (∃ r, decodeCmd w = .reject r) ↔ decodeOpc (opcOfWord w) = none := by
  unfold decodeCmd
  split
  · next i hi => simp [hi]
  · next hnone => simp [hnone]

/-- The opcode of a word is its low byte (R80). -/
theorem opcOfWord_toNat (w : Word) : (opcOfWord w).toNat = w.toNat % 256 := by
  rw [opcOfWord, BitVec.extractLsb'_toNat, Nat.shiftRight_zero]

/-- Words with the same low byte carry the same opcode (R80). -/
theorem opcOfWord_eq_of_mod {v w : Word} (h : v.toNat % 256 = w.toNat % 256) : opcOfWord v = opcOfWord w :=
  BitVec.eq_of_toNat_eq (by rw [opcOfWord_toNat, opcOfWord_toNat, h])

/-- The opcodes between the rows of the table name no command (R84). -/
theorem decodeOpc_eq_none_iff (opc : Byte) :
    decodeOpc opc = none ↔
      (opc.toNat = 0 ∨ (0x05 ≤ opc.toNat ∧ opc.toNat ≤ 0x0F) ∨ (0x14 ≤ opc.toNat ∧ opc.toNat ≤ 0x1F) ∨
        (0x25 ≤ opc.toNat ∧ opc.toNat ≤ 0x2F) ∨ 0x34 ≤ opc.toNat) := by
  have hrows : decodeOpc opc = none ↔ opc.toNat ∉ cmdTable.map (·.1.toNat) := by
    simp only [decodeOpc, Option.map_eq_none_iff, List.find?_eq_none, beq_iff_eq, List.mem_map, BitVec.toNat_inj,
      not_exists, not_and]
  have htable : cmdTable.map (·.1.toNat) = [1, 2, 3, 4, 16, 17, 18, 19, 32, 33, 34, 35, 36, 48, 49, 50, 51] := rfl
  rw [hrows, htable]
  simp only [List.mem_cons, List.not_mem_nil, or_false, not_or]
  omega

/-- Settles O5: decoding and acceptance see a word through its opcode. -/
theorem commandWordIgnoresUpperBits : Obligations.CommandWordIgnoresUpperBits := by
  intro v w h
  have hopc := opcOfWord_eq_of_mod h
  refine ⟨?decodes, fun s => ?accepts⟩
  case decodes => rw [decodeCmd, decodeCmd, hopc]
  case accepts => rw [accept, accept, hopc]

/-- The engine's step at an illegal opcode completes with ILLEGAL_CMD (R84). -/
theorem engineStep_illegal {opc : Byte} {ph : Phase} {s : State} (hs : s.at opc ph) (hopc : decodeOpc opc = none) :
    engineStep s = .next (raise .illegalCmd s) := by
  simp only [engineStep, show s.eng.fsm = .run opc ph from hs, hopc]

/-- The step of a block in which the engine moves at an illegal opcode (R84). -/
theorem step_illegal {opc : Byte} {ph : Phase} {s : State} {rest : List Input} (hport : s.env.port = none)
    (hin : s.env.inputs = .engine :: rest) (hs : s.at opc ph) (hopc : decodeOpc opc = none) :
    step s = .next (raise .illegalCmd (setInputs rest s)) :=
  (step_of_input hport hin).trans (engineStep_illegal (s := setInputs rest s) hs hopc)

/-- Two steps of the machine, one after the other. -/
theorem run_two {s t u : State} (h : step s = .next t) (h' : step t = .next u) :
    Host.Core.run core 2 s = .next u := by
  simp only [Host.Core.run, core, h, h']

/-- Settles O4: the first step accepts the word, and the second completes it with ILLEGAL_CMD. -/
theorem illegalOpcodeCompletesWithIllegalCmd : Obligations.IllegalOpcodeCompletesWithIllegalCmd := by
  intro w
  rw [decodeCmd_reject_iff]
  refine ⟨?ranges, fun s rest hillegal hport hidle hbusy hin => ?run⟩
  case ranges => rw [decodeOpc_eq_none_iff, opcOfWord_toNat]
  case run =>
    have haccept : step s = .next (accept w (setInputs (.engine :: rest) s)) :=
      (step_of_input hport hin).trans (hostWrite_cmd (s := setInputs (.engine :: rest) s) w hbusy)
    have hcmd : opcOfWord w = BitVec.ofNat 8 w.toNat :=
      BitVec.eq_of_toNat_eq (opcOfWord_toNat w)
    rw [run_two haccept (step_illegal hport rfl rfl hillegal), ← hcmd, raise, ← hidle]
    rfl

/-! ### Transactions (R82, R83) -/

/-- Settles O1: a command by its row of the opcode table, a transaction by its layout. -/
theorem decodeOfEncodeIsTheInstruction : Obligations.DecodeOfEncodeIsTheInstruction := by
  intro i hwf
  cases i with
  | encid | decid | encctl | decctl | rdreg | wrreg | wrbit | creset | mnormal | mrxonly | msleep | awake | setbaud |
    recv | sniff | recvf | xmit => exact decode_encode_of_cmdWord rfl rfl
  | ctlRead addr n => exact decodeXact_readBytes addr (of_decide_eq_true hwf)
  | ctlWrite addr data => exact decodeXact_writeBytes addr (List.ne_nil_of_length_pos (of_decide_eq_true hwf))
  | ctlReset | ctlBitmod | ctlReadRxBuffer | ctlLoadTxBuffer | ctlRequestToSend | ctlReadStatus => rfl

/-- Settles O3: words and transactions written out from the tables of R81 and R83. -/
theorem sampleWordsDecode : Obligations.SampleWordsDecode :=
  ⟨rfl, rfl, rfl, rfl, rfl, rfl, rfl, rfl⟩

/-- What decodes as a read after the command byte is an address and at least one slot of 0x00 (R66, R83). -/
theorem decodeRead_eq_ok {bytes : List Byte} {i : Instr} (h : decodeRead bytes = .ok i) :
    ∃ addr n, i = .ctlRead addr (n + 1) ∧ bytes = addr :: zeros (n + 1) := by
  unfold decodeRead at h
  split at h
  · next addr slot slots =>
    split at h
    · next hzero =>
      have hslots : slot :: slots = zeros (slots.length + 1) :=
        List.eq_replicate_iff.mpr ⟨rfl, fun b hb => eq_of_beq (List.all_eq_true.mp hzero b hb)⟩
      exact ⟨addr, slots.length, (Decoded.ok.inj h).symm, congrArg (addr :: ·) hslots⟩
    · cases h
  · cases h

/-- What decodes as a write after the command byte is an address and at least one data byte (R67, R83). -/
theorem decodeWrite_eq_ok {bytes : List Byte} {i : Instr} (h : decodeWrite bytes = .ok i) :
    ∃ addr d ds, i = .ctlWrite addr (d :: ds) ∧ bytes = addr :: d :: ds := by
  unfold decodeWrite at h
  split at h
  · exact ⟨_, _, _, (Decoded.ok.inj h).symm, rfl⟩
  · cases h

/-- What decodes as a bit-modify after the command byte is an address, a mask and a value (R68, R83). -/
theorem decodeBitmod_eq_ok {bytes : List Byte} {i : Instr} (h : decodeBitmod bytes = .ok i) :
    ∃ addr mask value, i = .ctlBitmod addr mask value ∧ bytes = [addr, mask, value] := by
  unfold decodeBitmod at h
  split at h
  · exact ⟨_, _, _, (Decoded.ok.inj h).symm, rfl⟩
  · cases h

/-- Nothing follows the command byte of a reset (R69, R83). -/
theorem decodeReset_eq_ok {bytes : List Byte} {i : Instr} (h : decodeReset bytes = .ok i) :
    i = .ctlReset ∧ bytes = [] := by
  unfold decodeReset at h
  split at h
  · exact ⟨(Decoded.ok.inj h).symm, rfl⟩
  · cases h

/-- Settles O2: byte 0 selects the layout, and each of the four layouts has one encoding. -/
theorem encodeOfDecodedTransaction : Obligations.EncodeOfDecodedTransaction := by
  intro bytes i h hemitted
  have hunlaid {j : Instr} (hj : Decoded.ok j = .ok i)
      (hmem : j ∈ [Instr.ctlReadRxBuffer, .ctlLoadTxBuffer, .ctlRequestToSend, .ctlReadStatus]) :
      i.wf = true ∧ encode i = .xact bytes := absurd (Decoded.ok.inj hj ▸ hmem) hemitted
  unfold decodeXact at h
  split at h
  · cases h
  · split_ifs at h with hreset hread hwrite hbitmod
    · obtain ⟨rfl, rfl⟩ := decodeReset_eq_ok h
      exact ⟨rfl, hreset ▸ rfl⟩
    · obtain ⟨addr, n, rfl, rfl⟩ := decodeRead_eq_ok h
      exact ⟨decide_eq_true (Nat.le_add_left 1 n), hread ▸ rfl⟩
    · obtain ⟨addr, d, ds, rfl, rfl⟩ := decodeWrite_eq_ok h
      exact ⟨decide_eq_true (Nat.le_add_left 1 ds.length), hwrite ▸ rfl⟩
    · obtain ⟨addr, mask, value, rfl, rfl⟩ := decodeBitmod_eq_ok h
      exact ⟨rfl, hbitmod ▸ rfl⟩
    all_goals exact hunlaid h (by decide)

/-- Settles O41: each of the four is refused by its own meaning. -/
theorem unlaidTransportCommandsStop : Obligations.UnlaidTransportCommandsStop := by
  intro s i hi
  simp only [List.mem_cons, List.not_mem_nil, or_false] at hi
  obtain rfl | rfl | rfl | rfl := hi <;> rfl

/-! ### The line wait (R93) -/

/-- Settles O48: the round reads STATUS, and while BUSY = 1 puts an engine step and itself in front of the inputs. -/
theorem waitPollsStatus : Obligations.WaitPollsStatus := by
  intro s rest hport hin
  rw [step_of_input hport hin]
  cases hbusy : s.host.status.busy with
  | true => simp [inputStep, hostWait, setInputs, hbusy]
  | false => simp [inputStep, hostWait, setInputs, hbusy]

end Sys2Proof.Machine
end

section
/-!
SUPPORT. The results of a command (30_encoding.md R81, "results written"): while a command runs, no host register changes
but STATUS and the results of its own row, and those in its completion step.
-/
namespace Sys2Proof.Machine

/-- What an instruction may leave in the host registers while a command runs: another STATUS, and results of its own row
of the opcode map (R81). -/
inductive WritesResults (i : Instr) (h : HostRegs) : HostRegs → Prop
  | status (st : Status) : WritesResults i h { h with status := st }
  | frame (hi : i ∈ [Instr.decid, .decctl, .recv, .sniff, .recvf]) (st : Status) (f : Frame) :
    WritesResults i h { h with status := st, frame := f }
  | pack (hi : i = .encid) (st : Status) (p : PackedId) : WritesResults i h { h with status := st, pack := p }
  | packDlc (hi : i = .encctl) (st : Status) (b : Byte) : WritesResults i h { h with status := st, packDlc := b }
  | result (hi : i ∈ [Instr.rdreg, .mnormal, .mrxonly, .msleep, .awake]) (st : Status) (r : Result) :
    WritesResults i h { h with status := st, result := r }

section

variable {opc : Byte} {ph : Phase} {s t : State}

/-- No write at all is a write of STATUS as it was. -/
theorem WritesResults.of_host_eq {i : Instr} (h : t.host = s.host) : WritesResults i s.host t.host := by
  rw [h]
  exact .status s.host.status

/-! ### Completion steps -/

/-- A step that completes a running command is one of its body. -/
theorem command_completes {body : Phase → State → Outcome} (h : command opc body s = .next t)
    (hs : s.eng.fsm.running = true) (ht : t.eng.fsm.running = false) : ∃ ph, body ph s = .next t := by
  obtain ⟨hidle, -⟩ | ⟨ph, -, hb⟩ | ⟨-, -, -, -, rfl⟩ := command_next h
  · rw [hidle] at hs
    cases hs
  · exact ⟨ph, hb⟩
  · rw [hs] at ht
    cases ht

/-- A procedure without labels completes by its completion step only. -/
theorem straightLine_completes {ops : List (State → State)} {complete : State → State}
    (h : straightLine opc ops complete ph s = .next t) (ht : t.eng.fsm.running = false) : t = complete s := by
  obtain ⟨k, op, -, -, rfl⟩ | ⟨-, rfl⟩ := straightLine_next h
  · cases ht
  · rfl

theorem command_straightLine_completes {ops : List (State → State)} {complete : State → State}
    (h : command opc (straightLine opc ops complete) s = .next t) (hs : s.eng.fsm.running = true)
    (ht : t.eng.fsm.running = false) : t = complete s := by
  obtain ⟨ph, hb⟩ := command_completes h hs ht
  exact straightLine_completes hb ht

/-- After the header the command still runs (R176, R177). -/
theorem decodeHeader_running (opc : Byte) (s : State) : (decodeHeader opc s).eng.fsm.running = true := by
  unfold decodeHeader
  split <;> rfl

/-- A base receive completes by its return only (R180). -/
theorem receive_completes {policy : Policy} {onReturn : RxResult → State → State}
    (h : receive opc policy onReturn ph s = .next t) (ht : t.eng.fsm.running = false) : ∃ r, t = onReturn r s := by
  obtain ⟨hph, rfl⟩ := receive_next h
  cases ph with
  | s0 =>
    simp only [receiveStep] at ht
    split at ht
    · cases ht
    · cases ht
  | sp =>
    simp only [receiveStep, receivePoll] at ht
    split at ht
    · cases ht
    · cases policy
      · cases ht
      · cases ht
  | st =>
    simp only [receiveStep, receiveClock] at ht
    split at ht
    · cases ht
    · cases ht
  | sh k =>
    simp only [receiveStep] at ht
    split at ht
    · cases ht
    · rw [decodeHeader_running] at ht
      cases ht
  | sd | sxc | sxb => cases ht
  | ret r => exact ⟨r, rfl⟩
  | line _ | th _ | td | tr | ts | ta | tc _ | fin _ => cases hph

/-! ### What each completion writes -/

theorem writesResults_encctlStep (s : State) : WritesResults .encctl s.host (encctlStep s).host := by
  unfold encctlStep
  split
  · exact .status _
  · exact .packDlc rfl _ _

theorem writesResults_decctlStep (s : State) : WritesResults .decctl s.host (decctlStep s).host := by
  unfold decctlStep
  split
  · exact .status _
  · exact .frame (by decide) _ _

theorem writesResults_confirm {i : Instr} (hi : i ∈ [Instr.rdreg, .mnormal, .mrxonly, .msleep, .awake])
    (code : BitVec 3) (s : State) : WritesResults i s.host (confirm code s).host := by
  unfold confirm
  split
  · exact .result hi _ _
  · exact .result hi _ _

theorem writesResults_recvReturn (r : RxResult) (s : State) : WritesResults .recv s.host (recvReturn r s).host := by
  cases r with
  | frame => exact .frame (by decide) _ _
  | expired | badDlc => exact .status _

theorem writesResults_sniffReturn (r : RxResult) (s : State) : WritesResults .sniff s.host (sniffReturn r s).host := by
  cases r with
  | frame => exact .frame (by decide) _ _
  | expired | badDlc => exact .status _

/-- RECVF writes F for the frame that matches only (R192, R193). -/
theorem writesResults_recvfReturn (r : RxResult) (s : State) : WritesResults .recvf s.host (recvfReturn r s).host := by
  cases r with
  | expired =>
    simp only [recvfReturn, recvfExpired]
    split
    · exact .status _
    · exact .status _
  | badDlc => exact .status _
  | frame =>
    simp only [recvfReturn, recvfFrame]
    split
    · exact .frame (by decide) _ _
    · exact .status _

/-- XMIT completes at its check of the data length and at its end, with no result (R195, R198, R199). -/
theorem xmitBody_writesResults (h : xmitBody ph s = .next t) (ht : t.eng.fsm.running = false) :
    WritesResults .xmit s.host t.host := by
  obtain ⟨hph, rfl⟩ := xmitBody_next h
  cases ph with
  | s0 =>
    simp only [xmitStep, xmitCheck]
    split
    · exact .status _
    · exact .status _
  | th k =>
    simp only [xmitStep] at ht
    split at ht
    · cases ht
    · cases ht
  | sp =>
    simp only [xmitStep, xmitPoll] at ht
    split at ht
    · cases ht
    · cases ht
  | st =>
    simp only [xmitStep, xmitClock] at ht
    split at ht
    · cases ht
    · cases ht
  | td | tr | ts | ta | tc _ => cases ht
  | fin w =>
    cases w with
    | set => exact .status _
    | expired => exact .status _
  | line _ | sh _ | sd | sxc | sxb | ret _ => cases hph

/-! ### Every instruction -/

/-- SETBAUD has no result, whether it completes or rejects its rate (R158). -/
theorem execSetbaud_writesResults (h : execSetbaud s = .next t) (hs : s.eng.fsm.running = true)
    (ht : t.eng.fsm.running = false) : WritesResults .setbaud s.host t.host := by
  obtain ⟨ph, hb⟩ := command_completes h hs ht
  split at hb
  · cases hb
    exact .status _
  · rw [straightLine_completes hb ht]
    exact .status _
  · rw [straightLine_completes hb ht]
    exact .status _

theorem execRecvf_writesResults (h : execRecvf s = .next t) (hs : s.eng.fsm.running = true)
    (ht : t.eng.fsm.running = false) : WritesResults .recvf s.host t.host := by
  obtain ⟨ph, hb⟩ := command_completes h hs ht
  split at hb
  · cases hb
    cases ht
  · obtain ⟨r, rfl⟩ := receive_completes hb ht
    exact writesResults_recvfReturn r s

/-- The completion of a command writes STATUS and the results of its row (R81, R213). -/
theorem completion_writesResults {i : Instr} (h : exec i s = .next t) (hs : s.eng.fsm.running = true)
    (ht : t.eng.fsm.running = false) : WritesResults i s.host t.host := by
  have straight {j : Instr} {ops : List (State → State)} {complete : State → State}
      (h : command (Laws.Lead.rowMatch j) (straightLine (Laws.Lead.rowMatch j) ops complete) s = .next t)
      (hcomplete : WritesResults j s.host (complete s).host) : WritesResults j s.host t.host :=
    command_straightLine_completes h hs ht ▸ hcomplete
  cases i with
  | encid => exact straight h (.pack rfl _ _)
  | decid => exact straight h (.frame (by decide) _ _)
  | encctl => exact straight h (writesResults_encctlStep s)
  | decctl => exact straight h (writesResults_decctlStep s)
  | rdreg | awake => exact straight h (.result (by decide) _ _)
  | wrreg | wrbit | creset => exact straight h (.status _)
  | mnormal | mrxonly | msleep => exact straight h (writesResults_confirm (by decide) _ s)
  | setbaud => exact execSetbaud_writesResults h hs ht
  | recv =>
    obtain ⟨ph, hb⟩ := command_completes h hs ht
    obtain ⟨r, rfl⟩ := receive_completes hb ht
    exact writesResults_recvReturn r s
  | sniff =>
    obtain ⟨ph, hb⟩ := command_completes h hs ht
    obtain ⟨r, rfl⟩ := receive_completes hb ht
    exact writesResults_sniffReturn r s
  | recvf => exact execRecvf_writesResults h hs ht
  | xmit =>
    obtain ⟨ph, hb⟩ := command_completes h hs ht
    exact xmitBody_writesResults hb ht
  | ctlReset | ctlRead | ctlWrite | ctlBitmod =>
    cases h
    exact .status _
  | ctlReadRxBuffer | ctlLoadTxBuffer | ctlRequestToSend | ctlReadStatus => cases h

/-- A step while a command runs writes no host register, or completes the command (R213). -/
theorem exec_writesResults {i : Instr} (h : exec i s = .next t) (hs : s.eng.fsm.running = true) :
    WritesResults i s.host t.host := by
  cases ht : t.eng.fsm.running with
  | true => exact .of_host_eq (runningStepsWriteNoHostRegister i s t h hs ht)
  | false => exact completion_writesResults h hs ht

end

/-- Settles O53: STATUS is not among the registers that the statement keeps, and each result is of its own row. -/
theorem eachCommandWritesOnlyItsResults : Obligations.EachCommandWritesOnlyItsResults := by
  intro i s t h hs
  have hw := exec_writesResults h hs
  generalize s.host = r, t.host = r' at hw ⊢
  cases hw with
  | status => exact ⟨rfl, rfl, rfl, rfl, rfl, rfl, rfl, fun _ => rfl, fun _ => rfl, fun _ => rfl, fun _ => rfl⟩
  | frame hi =>
    exact ⟨rfl, rfl, rfl, rfl, rfl, rfl, rfl, fun hn => absurd hi hn, fun _ => rfl, fun _ => rfl, fun _ => rfl⟩
  | pack hi =>
    exact ⟨rfl, rfl, rfl, rfl, rfl, rfl, rfl, fun _ => rfl, fun hn => absurd hi hn, fun _ => rfl, fun _ => rfl⟩
  | packDlc hi =>
    exact ⟨rfl, rfl, rfl, rfl, rfl, rfl, rfl, fun _ => rfl, fun _ => rfl, fun hn => absurd hi hn, fun _ => rfl⟩
  | result hi =>
    exact ⟨rfl, rfl, rfl, rfl, rfl, rfl, rfl, fun _ => rfl, fun _ => rfl, fun _ => rfl, fun hn => absurd hi hn⟩

end Sys2Proof.Machine
end

section
/-!
SUPPORT. The codec (41_codec.md R110 to R120): the packed bytes in numbers, decoding after encoding (R116, R117), encoding
after decoding (R118), and the four codec commands, each of which completes in its one step.
-/
namespace Sys2Proof.Machine

/-! ### The packed bytes in numbers (R86 to R90) -/

/-- The extended flag stands in bit 3 of sidLow, with the two high bits of the extension below it (R87). -/
theorem extBits_toNat (ext : Bool) (eid : BitVec 18) :
    (extBit ext ||| (if ext then (eid.extractLsb' 16 2).setWidth 8 else 0)).toNat =
      if ext then 8 + eid.toNat / 65536 else 0 := by
  cases ext with
  | false => simp [extBit]
  | true =>
    have hhigh : ((eid.extractLsb' 16 2).setWidth 8).toNat = eid.toNat / 65536 := by
      rw [BitVec.toNat_setWidth, BitVec.extractLsb'_toNat, Nat.shiftRight_eq_div_pow]
      omega
    have hlt : eid.toNat / 65536 < 2 ^ 3 := by omega
    calc (0x08 ||| (eid.extractLsb' 16 2).setWidth 8 : Byte).toNat
      _ = 2 ^ 3 * 1 ||| eid.toNat / 65536 := by rw [BitVec.toNat_or, hhigh]; rfl
      _ = 8 + eid.toNat / 65536 := (Nat.two_pow_add_eq_or_of_lt hlt 1).symm

theorem encodeIdentifier_sidh_toNat (id : BitVec 11) (ext : Bool) (eid : BitVec 18) :
    (encodeIdentifier id ext eid).sidh.toNat = id.toNat / 8 := by
  rw [encodeIdentifier, BitVec.extractLsb'_toNat, Nat.shiftRight_eq_div_pow]
  omega

theorem encodeIdentifier_sidl_toNat (id : BitVec 11) (ext : Bool) (eid : BitVec 18) :
    (encodeIdentifier id ext eid).sidl.toNat =
      id.toNat % 8 * 32 + if ext then 8 + eid.toNat / 65536 else 0 := by
  have hlow : ((id.extractLsb' 0 3).setWidth 8 <<< 5).toNat = (id.toNat % 8) <<< 5 := by
    rw [BitVec.toNat_shiftLeft, BitVec.toNat_setWidth, BitVec.extractLsb'_toNat, Nat.shiftRight_zero,
      Nat.shiftLeft_eq, Nat.shiftLeft_eq]
    omega
  have hlt : (if ext then 8 + eid.toNat / 65536 else 0) < 2 ^ 5 := by split <;> omega
  rw [encodeIdentifier, BitVec.or_assoc, BitVec.toNat_or, hlow, extBits_toNat, ← Nat.shiftLeft_add_eq_or_of_lt hlt,
    Nat.shiftLeft_eq]

theorem encodeIdentifier_eid8_toNat (id : BitVec 11) (ext : Bool) (eid : BitVec 18) :
    (encodeIdentifier id ext eid).eid8.toNat = if ext then eid.toNat / 256 % 256 else 0 := by
  cases ext with
  | false => rfl
  | true => exact (BitVec.extractLsb'_toNat 8 8 eid).trans (by rw [Nat.shiftRight_eq_div_pow]; rfl)

theorem encodeIdentifier_eid0_toNat (id : BitVec 11) (ext : Bool) (eid : BitVec 18) :
    (encodeIdentifier id ext eid).eid0.toNat = if ext then eid.toNat % 256 else 0 := by
  cases ext with
  | false => rfl
  | true => exact BitVec.extractLsb'_toNat 0 8 eid

/-- The remote flag stands in bit 6 of the control byte, above the data length (R90). -/
theorem encodeControl_toNat (dlc : BitVec 4) (rtr : Bool) :
    (encodeControl dlc rtr).toNat = dlc.toNat + if rtr then 64 else 0 := by
  have hdlc : (dlc.setWidth 8).toNat = dlc.toNat := BitVec.toNat_setWidth_of_le (by decide)
  rw [encodeControl, BitVec.toNat_or, hdlc]
  cases rtr with
  | false => exact Nat.zero_or _
  | true => exact (Nat.two_pow_add_eq_or_of_lt (i := 6) (by omega) 1).symm.trans (Nat.add_comm _ _)

/-- The bits of a concatenation as a number. -/
theorem append_toNat {m n : Nat} (x : BitVec m) (y : BitVec n) : (x ++ y).toNat = x.toNat * 2 ^ n + y.toNat := by
  rw [BitVec.toNat_append, ← Nat.shiftLeft_add_eq_or_of_lt y.isLt, Nat.shiftLeft_eq]

/-- Four lanes as a number, the first byte lowest (R75). -/
theorem lanes_toNat (b0 b1 b2 b3 : Byte) :
    (lanes b0 b1 b2 b3).toNat = b0.toNat + 2 ^ 8 * b1.toNat + 2 ^ 16 * b2.toNat + 2 ^ 24 * b3.toNat := by
  simp only [lanes, append_toNat]
  omega

/-! ### Decoding after encoding (R116, R117) -/

/-- Bit 3 of an encoded sidLow is the extended flag (R87). -/
theorem encodeIdentifier_sidl_bit3 (id : BitVec 11) (ext : Bool) (eid : BitVec 18) :
    (encodeIdentifier id ext eid).sidl.toNat / 8 % 2 = if ext then 1 else 0 := by
  rw [encodeIdentifier_sidl_toNat]
  split <;> omega

theorem decodeId_encodeIdentifier (id : BitVec 11) (ext : Bool) (eid : BitVec 18) :
    decodeId (encodeIdentifier id ext eid) = id := by
  apply BitVec.eq_of_toNat_eq
  rw [decodeId_toNat, encodeIdentifier_sidh_toNat, encodeIdentifier_sidl_toNat]
  split <;> omega

theorem decodeExt_encodeIdentifier (id : BitVec 11) (ext : Bool) (eid : BitVec 18) :
    decodeExt (encodeIdentifier id ext eid) = ext := by
  rw [decodeExt_eq, encodeIdentifier_sidl_bit3]
  cases ext <;> rfl

theorem decodeEid_encodeIdentifier (id : BitVec 11) (ext : Bool) (eid : BitVec 18) :
    decodeEid (encodeIdentifier id ext eid) = if ext then eid else 0 := by
  apply BitVec.eq_of_toNat_eq
  rw [decodeEid_toNat, encodeIdentifier_sidl_bit3, encodeIdentifier_sidl_toNat, encodeIdentifier_eid8_toNat,
    encodeIdentifier_eid0_toNat]
  cases ext with
  | false => rfl
  | true =>
    simp only [if_true]
    omega

/-- Settles O6: each of the three fields by its own lemma. -/
theorem identifierRoundTrip : Obligations.IdentifierRoundTrip := fun id ext eid =>
  ⟨decodeId_encodeIdentifier id ext eid, decodeExt_encodeIdentifier id ext eid, decodeEid_encodeIdentifier id ext eid⟩

theorem encodeControl_dlc (dlc : BitVec 4) (rtr : Bool) : (encodeControl dlc rtr).extractLsb' 0 4 = dlc := by
  apply BitVec.eq_of_toNat_eq
  rw [dlc_toNat, encodeControl_toNat]
  split <;> omega

theorem encodeControl_rtr (dlc : BitVec 4) (rtr : Bool) : (encodeControl dlc rtr).getLsbD 6 = rtr := by
  have hbit : (dlc.toNat + if rtr then 64 else 0) / 64 % 2 = if rtr then 1 else 0 := by split <;> omega
  rw [rtr_eq, encodeControl_toNat, hbit]
  cases rtr <;> rfl

/-- Settles O7: the two fields of an encoded control byte are those encoded, and the data length is in range. -/
theorem controlByteRoundTrip : Obligations.ControlByteRoundTrip := by
  intro dlc rtr hdlc
  have hgood : (encodeControl dlc rtr).toNat % 16 ≤ 8 := by rwa [← dlc_toNat, encodeControl_dlc]
  rw [decodeControl_good hgood, encodeControl_dlc, encodeControl_rtr]

/-! ### Encoding after decoding (R118) -/

/-- A field taken out of a byte and put back in its place is the byte in the bits of the field. -/
theorem extractLsb'_shiftLeft_eq_and (b : Byte) (k n : Nat) :
    (b.extractLsb' k n).setWidth 8 <<< k = b &&& ((BitVec.allOnes n).setWidth 8 <<< k) := by
  ext i hi
  by_cases hk : i < k
  · simp [hk]
  · have hki : k + (i - k) = i := by omega
    simp [hk, hki, hi, Bool.and_comm]

theorem extractLsb'_low_eq_and (b : Byte) (n : Nat) :
    (b.extractLsb' 0 n).setWidth 8 = b &&& (BitVec.allOnes n).setWidth 8 := by
  simpa using extractLsb'_shiftLeft_eq_and b 0 n

/-- A mask leaves a byte alone exactly when the bits outside it are 0. -/
theorem and_eq_self_iff (b m : Byte) : b &&& m = b ↔ b &&& ~~~m = 0 := by
  constructor
  · intro h
    rw [← h, BitVec.and_assoc, BitVec.and_not_self]
    exact BitVec.and_zero
  · intro h
    calc b &&& m
      _ = b &&& m ||| b &&& ~~~m := by rw [h]; exact BitVec.or_zero.symm
      _ = b := by rw [← BitVec.and_or_distrib_left, BitVec.or_not_self, BitVec.and_allOnes]

/-- The packed bytes with the bits that decoding ignores at 0 (R91, R118). -/
def PackedId.clearIgnored (p : PackedId) : PackedId :=
  if decodeExt p then { p with sidl := p.sidl &&& 0xEB } else ⟨p.sidh, p.sidl &&& 0xE8, 0, 0⟩

/-- The three parts of the extension stand side by side (R112). -/
theorem decodeEid_parts {p : PackedId} (h : decodeExt p = true) :
    (decodeEid p).extractLsb' 16 2 = p.sidl.extractLsb' 0 2 ∧ (decodeEid p).extractLsb' 8 8 = p.eid8 ∧
      (decodeEid p).extractLsb' 0 8 = p.eid0 := by
  rw [decodeEid, if_pos h]
  refine ⟨?high, ?eid8, BitVec.extractLsb'_append_eq_right⟩
  case high =>
    exact (BitVec.extractLsb'_append_eq_of_le (by decide)).trans BitVec.extractLsb'_append_eq_left
  case eid8 =>
    exact (BitVec.extractLsb'_append_eq_of_le (by decide)).trans BitVec.extractLsb'_append_eq_right

/-- Encoding what was decoded clears the ignored bits. -/
theorem encodeIdentifier_decode (p : PackedId) :
    encodeIdentifier (decodeId p) (decodeExt p) (decodeEid p) = p.clearIgnored := by
  have hsidh : (decodeId p).extractLsb' 3 8 = p.sidh := BitVec.extractLsb'_append_eq_left
  have hlow : ((decodeId p).extractLsb' 0 3).setWidth 8 <<< 5 = p.sidl &&& 0xE0 := by
    rw [decodeId, BitVec.extractLsb'_append_eq_right]
    exact extractLsb'_shiftLeft_eq_and p.sidl 5 3
  have hflag : extBit (decodeExt p) = p.sidl &&& 0x08 := (BitVec.and_twoPow p.sidl 3).symm
  rw [encodeIdentifier, hsidh, hlow, hflag, ← BitVec.and_or_distrib_left, PackedId.clearIgnored]
  cases h : decodeExt p with
  | false => simp
  | true =>
    obtain ⟨hhigh, heid8, heid0⟩ := decodeEid_parts h
    have hmask : (p.sidl.extractLsb' 0 2).setWidth 8 = p.sidl &&& 0x03 := extractLsb'_low_eq_and p.sidl 2
    simp only [if_true, hhigh, heid8, heid0, hmask, ← BitVec.and_or_distrib_left]
    rfl

/-- The ignored bits do not change what is decoded. -/
theorem decodeId_clearIgnored (p : PackedId) : decodeId p.clearIgnored = decodeId p := by
  rw [← encodeIdentifier_decode, decodeId_encodeIdentifier]

theorem decodeExt_clearIgnored (p : PackedId) : decodeExt p.clearIgnored = decodeExt p := by
  rw [← encodeIdentifier_decode, decodeExt_encodeIdentifier]

theorem decodeEid_clearIgnored (p : PackedId) : decodeEid p.clearIgnored = decodeEid p := by
  rw [← encodeIdentifier_decode, decodeEid_encodeIdentifier]
  split
  · rfl
  · next h => exact (if_neg h).symm

/-- The bits that decoding sees fix the packed bytes but for the ignored ones. -/
theorem PackedId.clearIgnored_congr {p q : PackedId} (hsidh : p.sidh = q.sidh)
    (hsidl : p.sidl &&& 0xE8 = q.sidl &&& 0xE8)
    (hext : decodeExt p = true → p.sidl &&& 0x03 = q.sidl &&& 0x03 ∧ p.eid8 = q.eid8 ∧ p.eid0 = q.eid0) :
    p.clearIgnored = q.clearIgnored := by
  have hflag (r : PackedId) : decodeExt r = (r.sidl &&& 0xE8).getLsbD 3 := by
    rw [BitVec.getLsbD_and]
    exact (Bool.and_true _).symm
  have hpq : decodeExt q = decodeExt p := by rw [hflag, hflag, hsidl]
  have hmask (b : Byte) : b &&& 0xEB = b &&& 0xE8 ||| b &&& 0x03 := BitVec.and_or_distrib_left (y := 0xE8) (z := 0x03)
  rw [clearIgnored, clearIgnored, hpq]
  split
  · next h =>
    obtain ⟨hlow, heid8, heid0⟩ := hext h
    rw [hmask, hmask, hsidh, hsidl, hlow, heid8, heid0]
  · rw [hsidh, hsidl]

theorem PackedId.clearIgnored_eq_self_iff (p : PackedId) :
    p.clearIgnored = p ↔
      p.sidl &&& 0x14 = 0 ∧ (decodeExt p = false → p.sidl &&& 0x03 = 0 ∧ p.eid8 = 0 ∧ p.eid0 = 0) := by
  obtain ⟨sidh, sidl, eid8, eid0⟩ := p
  rw [clearIgnored]
  split
  · next h =>
    have hmask : sidl &&& 0xEB = sidl ↔ sidl &&& 0x14 = 0 := and_eq_self_iff sidl 0xEB
    simp only [mk.injEq, true_and, and_true, hmask, h, Bool.true_eq_false, false_implies]
  · next h =>
    have hsplit : sidl &&& ~~~0xE8 = sidl &&& 0x14 ||| sidl &&& 0x03 :=
      BitVec.and_or_distrib_left (y := 0x14) (z := 0x03)
    have hmask : sidl &&& 0xE8 = sidl ↔ sidl &&& 0x14 = 0 ∧ sidl &&& 0x03 = 0 := by
      rw [and_eq_self_iff, hsplit]
      exact BitVec.or_eq_zero_iff
    simp only [mk.injEq, true_and, hmask, h, forall_const, and_assoc, @eq_comm _ (0 : Byte)]

/-- Encoding the fields of a control byte clears its ignored bits 7, 5 and 4 (R91). -/
theorem encodeControl_fields (b : Byte) : encodeControl (b.extractLsb' 0 4) (b.getLsbD 6) = b &&& 0x4F := by
  have hdlc : (b.extractLsb' 0 4).setWidth 8 = b &&& 0x0F := extractLsb'_low_eq_and b 4
  have hrtr : (if b.getLsbD 6 then 0x40 else 0x00 : Byte) = b &&& 0x40 := (BitVec.and_twoPow b 6).symm
  rw [encodeControl, hdlc, hrtr, ← BitVec.and_or_distrib_left]
  rfl

theorem decodeControl_clearIgnored (b : Byte) : decodeControl (b &&& 0x4F) = decodeControl b := by
  rw [decodeControl, decodeControl, ← encodeControl_fields, encodeControl_dlc, encodeControl_rtr]

/-- A control byte that decodes gives its two fields (R114). -/
theorem decodeControl_eq_some {b : Byte} {dlc : BitVec 4} {rtr : Bool} (h : decodeControl b = some (dlc, rtr)) :
    dlc = b.extractLsb' 0 4 ∧ rtr = b.getLsbD 6 := by
  unfold decodeControl at h
  split at h
  · cases h
  · cases h
    exact ⟨rfl, rfl⟩

/-- Settles O8: encoding after decoding clears the ignored bits, and decoding does not see whether they were cleared. -/
theorem ignoredHeaderBits : Obligations.IgnoredHeaderBits := by
  refine ⟨fun p q hsidh hsidl hext => ?alike, fun p => ?same, fun b c hbc => ?alikeControl,
    fun b dlc rtr hdec => ?sameControl⟩
  case alike =>
    have h := PackedId.clearIgnored_congr hsidh hsidl hext
    rw [← decodeId_clearIgnored p, ← decodeExt_clearIgnored p, ← decodeEid_clearIgnored p, h]
    exact ⟨decodeId_clearIgnored q, decodeExt_clearIgnored q, decodeEid_clearIgnored q⟩
  case same =>
    rw [encodeIdentifier_decode]
    exact p.clearIgnored_eq_self_iff
  case alikeControl => rw [← decodeControl_clearIgnored b, hbc, decodeControl_clearIgnored]
  case sameControl =>
    obtain ⟨rfl, rfl⟩ := decodeControl_eq_some hdec
    rw [encodeControl_fields]
    exact and_eq_self_iff b 0x4F

/-! ### The codec commands (R110 to R115) -/

/-- A command without transactions completes in its one step (R110). -/
theorem command_straightLine_nil {opc : Byte} {complete : State → State} {s : State} (hs : s.at opc (.line 0)) :
    command opc (straightLine opc [] complete) s = .next (complete s) :=
  (command_run hs).trans (straightLine_complete (ops := []))

/-- Settles O9: the one step writes the packed bytes of F, which the numbers above give. -/
theorem encidPacksTheIdentifier : Obligations.EncidPacksTheIdentifier := fun s hs =>
  ⟨encidStep s, command_straightLine_nil hs, rfl, encodeIdentifier_sidh_toNat _ _ _, encodeIdentifier_sidl_toNat _ _ _,
    encodeIdentifier_eid8_toNat _ _ _, encodeIdentifier_eid0_toNat _ _ _, lanes_toNat _ _ _ _⟩

/-- Settles O10: the one step writes the fields that PACK decodes to. -/
theorem decidUnpacksTheIdentifier : Obligations.DecidUnpacksTheIdentifier := fun s hs =>
  ⟨decidStep s, command_straightLine_nil hs, rfl, decodeId_toNat _, decodeExt_eq _, decodeEid_toNat _⟩

/-- The input check of R115 on the data length as a number. -/
theorem Frame.badLength_iff (f : Frame) : f.badLength = true ↔ 8 < f.dataLength.toNat := decide_eq_true_iff

/-- Settles O11: the input check splits the data lengths into those packed and those rejected. -/
theorem encctlPacksOrRejects : Obligations.EncctlPacksOrRejects := by
  intro s hs
  refine ⟨fun hlen => ⟨encctlStep s, command_straightLine_nil hs, ?packs⟩,
    fun hlen => (command_straightLine_nil hs).trans ?rejects⟩
  case packs =>
    have hgood : ¬ s.host.frame.badLength = true := (Frame.badLength_iff _).not.mpr (Nat.not_lt.mpr hlen)
    rw [encctlStep, if_neg hgood]
    exact ⟨rfl, encodeControl_toNat _ _⟩
  case rejects =>
    rw [encctlStep, if_pos ((Frame.badLength_iff _).mpr hlen)]
    rfl

/-- A control byte whose data length is 9 to 15 does not decode (R114). -/
theorem decodeControl_bad {b : Byte} (h : 8 < b.toNat % 16) : decodeControl b = none := by
  rw [← dlc_toNat] at h
  exact if_pos h

/-- Settles O12: DLCB decodes or it does not, and F is written in the first case only. -/
theorem decctlUnpacksOrRejects : Obligations.DecctlUnpacksOrRejects := by
  intro s hs
  refine ⟨fun hlen => ⟨decctlStep s, command_straightLine_nil hs, ?unpacks⟩,
    fun hlen => (command_straightLine_nil hs).trans ?rejects⟩
  case unpacks =>
    rw [decctlStep, decodeControl_good hlen]
    exact ⟨rfl, dlc_toNat _, rtr_eq _⟩
  case rejects =>
    rw [decctlStep, decodeControl_bad hlen]
    rfl

end Sys2Proof.Machine
end

section
/-!
SUPPORT. The register access commands (42_register_access.md R130 to R138): each is one transaction and a completion step.
-/
namespace Sys2Proof.Machine

/-! ### A run of a procedure without labels -/

section

variable {i : Instr} {opc : Byte} {ops : List (State → State)} {complete : State → State} {s : State}

/-- A run at step `k` of a procedure makes transaction `k`, and then runs on at the next step. -/
theorem execs_straightLine_op {k n : Nat} {op : State → State}
    (hexec : ∀ s, exec i s = command opc (straightLine opc ops complete) s) (hs : s.at opc (.line k))
    (hop : ops[k]? = some op) : execs i (n + 1) s = execs i n (goto opc (.line (k + 1)) (op s)) :=
  execs_succ ((hexec s).trans ((command_run hs).trans (straightLine_op hop)))

/-- A run after the last transaction of a procedure is its completion step. -/
theorem execs_straightLine_complete (hexec : ∀ s, exec i s = command opc (straightLine opc ops complete) s)
    (hs : s.at opc (.line ops.length)) : execs i 1 s = .next (complete s) :=
  execs_succ ((hexec s).trans ((command_run hs).trans straightLine_complete))

/-- The two steps of a procedure of one transaction (R130). -/
theorem execs_straightLine_single {op : State → State}
    (hexec : ∀ s, exec i s = command opc (straightLine opc [op] complete) s) (hs : s.at opc (.line 0)) :
    execs i 2 s = .next (complete (goto opc (.line 1) (op s))) :=
  (execs_straightLine_op hexec hs rfl).trans (execs_straightLine_complete hexec rfl)

end

/-! ### The commands -/

/-- The bit that a write of one bit addresses is the value written, whatever the controller gives the other bits (R133). -/
theorem mergeBits_bitMask (held : Byte) (idx : BitVec 3) (value : Bool) :
    (mergeBits held (bitMask idx) (if value then bitMask idx else 0)).getLsbD idx.toNat = value := by
  cases value with
  | false => exact mergeBits_clears held idx
  | true =>
    have hmask : (bitMask idx).getLsbD idx.toNat = true := by revert idx; decide
    simp [mergeBits, hmask]

/-- Settles O13: the transaction latches the byte read, and the completion step moves it to RESULT. -/
theorem rdregReadsOneRegister : Obligations.RdregReadsOneRegister := fun s hs =>
  have hread := Transacts.readOne (touched := (· = s.host.regAddr.toNat)) s rfl
  ⟨_, execs_straightLine_single (fun _ => rfl) hs, rfl, readByte_cons s, rfl, rfl, hread.sent, rfl,
    Memory.read_write_same _ _ _, hread.regs⟩

/-- Settles O14: the write of the transaction is kept in the record or forgotten, as the free value says. -/
theorem wrregWritesOneRegister : Obligations.WrregWritesOneRegister := fun s hs =>
  ⟨_, execs_straightLine_single (fun _ => rfl) hs, rfl, rfl, rfl, rfl, rfl,
    writeRegister_read _ _ _ s, fun _ hx => writeRegister_read_other _ _ _ s hx⟩

/-- Settles O15: the bit-modify merges one bit, with `1 << IDX` as its mask. -/
theorem wrbitModifiesOneBit : Obligations.WrbitModifiesOneBit := by
  intro s hs
  have hwrite := Transacts.writeBit (touched := (· = s.host.regAddr.toNat)) (idx := s.host.regBit.idx)
    (value := s.host.regBit.val) s rfl
  refine ⟨_, execs_straightLine_single (fun _ => rfl) hs, rfl, rfl, rfl, ?sent, rfl,
    ⟨_, Memory.read_write_same _ _ _, mergeBits_bitMask _ _ _⟩, hwrite.regs⟩
  case sent =>
    rw [← bitMask_eq]
    exact hwrite.sent

/-- Settles O16: the reset leaves the controller at its power-on (R69), and no step after it waits or reads. -/
theorem cresetSendsTheResetByte : Obligations.CresetSendsTheResetByte := fun _ hs =>
  ⟨_, execs_straightLine_single (fun _ => rfl) hs, rfl, rfl, rfl, rfl, rfl, rfl, fun _ => rfl⟩

end Sys2Proof.Machine
end

section
/-!
SUPPORT. The mode control commands (43_mode_control.md R150 to R160): each is a procedure of transactions, and all but
SETBAUD end with a status read and its report.
-/
namespace Sys2Proof.Machine

/-! ### A run of a procedure of several transactions -/

/-- A transaction of a procedure neither reads nor writes the phase, and leaves the host registers and the parameters as
they are. -/
structure PhaseBlind (op : State → State) : Prop where
  goto : ∀ opc ph s, op (goto opc ph s) = goto opc ph (op s)
  host : ∀ s, (op s).host = s.host
  cfg : ∀ s, (op s).cfg = s.cfg

/-- The state after the transactions of a procedure, made one after another. -/
def afterOps (ops : List (State → State)) (s : State) : State := ops.foldl (fun u op => op u) s

section

variable {i : Instr} {opc : Byte} {complete : State → State}

/-- A run of what is left of a procedure makes its transactions in order, and then the completion step. That the
instruction is this procedure may depend on the operands and the parameters, as it does for SETBAUD (R158). -/
theorem execs_straightLine_rest (done ops : List (State → State)) (hops : ops.Forall PhaseBlind) (s : State)
    (hexec : ∀ u, u.host = s.host → u.cfg = s.cfg →
      exec i u = command opc (straightLine opc (done ++ ops) complete) u) :
    execs i (ops.length + 1) (goto opc (.line done.length) s) =
      .next (complete (goto opc (.line (done ++ ops).length) (afterOps ops s))) := by
  induction ops generalizing done s with
  | nil =>
    have hstep := (hexec (goto opc (.line (done ++ []).length) s) rfl rfl).trans
      ((command_run rfl).trans straightLine_complete)
    rw [show done.length = (done ++ []).length by rw [List.append_nil]]
    exact execs_succ hstep
  | cons op ops ih =>
    obtain ⟨hop, hrest⟩ := (List.forall_cons ..).mp hops
    have hget : (done ++ op :: ops)[done.length]? = some op := by simp
    have hstep := (hexec (goto opc (.line done.length) s) rfl rfl).trans ((command_run rfl).trans (straightLine_op hget))
    have hlen : (done ++ [op]).length = done.length + 1 := List.length_append
    have hrun := ih (done ++ [op]) hrest (op s) fun u hhost hcfg => by
      rw [List.append_assoc]
      exact hexec u (hhost.trans (hop.host s)) (hcfg.trans (hop.cfg s))
    rw [hlen, List.append_assoc] at hrun
    rw [List.length_cons, execs_succ hstep, hop.goto]
    exact hrun

/-- A run of a whole procedure. -/
theorem execs_straightLine {ops : List (State → State)} {s : State}
    (hexec : ∀ u, u.host = s.host → u.cfg = s.cfg → exec i u = command opc (straightLine opc ops complete) u)
    (hops : ops.Forall PhaseBlind) (hs : s.at opc (.line 0)) :
    execs i (ops.length + 1) s = .next (complete (goto opc (.line ops.length) (afterOps ops s))) := by
  have hrun := execs_straightLine_rest [] ops hops s hexec
  rwa [List.length_nil, goto_eq_self hs] at hrun

end

namespace PhaseBlind

theorem memWrite (a b : Params → Byte) : PhaseBlind fun s => memWrite (a s.cfg) [b s.cfg] s :=
  ⟨fun _ _ _ => rfl, fun _ => rfl, fun _ => rfl⟩

theorem writeBit (a : Params → Byte) (idx : Params → BitVec 3) (value : Bool) :
    PhaseBlind fun s => writeBit (a s.cfg) (idx s.cfg) value s :=
  ⟨fun _ _ _ => rfl, fun _ => rfl, fun _ => rfl⟩

theorem writeTiming (a : Params → Byte) (b : Byte) : PhaseBlind fun s => writeTiming (a s.cfg) b s :=
  ⟨fun _ _ _ => rfl, fun _ => rfl, fun _ => rfl⟩

theorem readStatus : PhaseBlind readStatus := ⟨fun _ _ _ => rfl, fun _ => rfl, fun _ => rfl⟩

end PhaseBlind

/-! ### The status read and its report (R150) -/

/-- OPMODE is the top three bits of the status byte (R43). -/
theorem opmode_toNat (b : Byte) : (opmode b).toNat = b.toNat / 32 := by
  simp only [opmode, BitVec.extractLsb'_toNat]
  omega

theorem opmode_eq_iff (b : Byte) (code : BitVec 3) : opmode b = code ↔ b.toNat / 32 = code.toNat := by
  rw [← BitVec.toNat_inj, opmode_toNat]

/-- The awake verdict in numbers: OPMODE differs from 1 (R154). -/
theorem awakeOf_eq (b : Byte) : awakeOf b = decide (b.toNat / 32 ≠ 1) := by
  have h := not_congr (opmode_eq_iff b codeSleep)
  rw [awakeOf, Bool.eq_iff_iff, bne_iff_ne, decide_eq_true_iff]
  exact h

/-- STATUS after a confirmation that finds the status byte `b` (R150). -/
def confirmStatus (code : BitVec 3) (b : Byte) : Status :=
  if b.toNat / 32 = code.toNat then Status.succeeded else Status.failed .modeFailed

/-- The command is over with a STATUS, whether it is a success or a failure (R213). -/
def completeWith (st : Status) (s : State) : State :=
  { s with host := { s.host with status := st }, eng := { s.eng with fsm := .idle } }

/-- The confirmation reports the status byte in every case, and completes as OPMODE says (R150). -/
theorem confirm_eq (code : BitVec 3) (s : State) :
    confirm code s = completeWith (confirmStatus code s.eng.rxByte) (recordStatus s) := by
  simp only [confirm, confirmStatus, opmode_eq_iff]
  split <;> rfl

/-- `t` is `s` after a command whose transactions sent `sent` (newest first), recorded registers at addresses of `touched`
only, and read the status byte `b`; its completion reported `b` in RESULT with the awake verdict, and left STATUS `st`. -/
structure ReportsStatus (touched : Nat → Prop) (sent : List (List Byte)) (b : Byte) (rest : List Byte) (st : Status)
    (s t : State) : Prop where
  host : t.host = { s.host with result := ⟨b, decide (b.toNat / 32 ≠ 1)⟩, status := st }
  eng : t.eng = { s.eng with fsm := .idle, rxByte := t.eng.rxByte }
  cfg : t.cfg = s.cfg
  sent : t.sent = sent ++ s.sent
  env : t.env = { s.env with answers := rest, draws := t.env.draws, trace := t.env.trace }
  regs : sameRegs touched s t

section

variable {touched : Nat → Prop} {sent : List (List Byte)} {s u : State} {b : Byte} {rest : List Byte}

/-- The outside world after transactions, in its own bookkeeping. -/
theorem Transacts.env_eq {n : Nat} (h : Transacts touched sent n s u) :
    u.env = { s.env with answers := s.env.answers.drop n, draws := u.env.draws, trace := u.env.trace } := by
  obtain ⟨d, tr, henv⟩ := h.env
  rw [henv]

/-- The byte that the next status read returns, after transactions that read nothing. -/
theorem Transacts.readByte_eq (h : Transacts touched sent 0 s u) (ha : s.env.answers = b :: rest) : readByte u = b := by
  have hu := congrArg Env.answers h.env_eq
  exact readByte_cons u b rest (hu.trans ha)

/-- Transactions that read nothing, the status read, and the completion that reports its byte. -/
theorem Transacts.reportsStatus (h : Transacts touched sent 0 s u) (hu : u.eng = s.eng)
    (ha : s.env.answers = b :: rest) (hstat : touched s.cfg.aStat.toNat) (st : Status) (opc : Byte) (ph : Phase) :
    ReportsStatus touched (readBytes s.cfg.aStat 1 :: sent) b rest st s
      (completeWith st (recordStatus (goto opc ph (readStatus u)))) := by
  have hread := h.trans (Transacts.readOne (a := u.cfg.aStat) u (h.cfg ▸ hstat))
  have hb := h.readByte_eq ha
  refine ⟨?host, ?eng, hread.cfg, ?sent, ?env, hread.regs⟩
  case host =>
    have hresult : (⟨readByte u, awakeOf (readByte u)⟩ : Result) = ⟨b, decide (b.toNat / 32 ≠ 1)⟩ := by
      rw [hb, awakeOf_eq]
    rw [← hresult, ← h.host]
    rfl
  case eng =>
    rw [← hu]
    rfl
  case sent =>
    rw [← h.cfg]
    exact hread.sent
  case env =>
    have henv := hread.env_eq
    rw [ha] at henv
    exact henv

/-- The same with a confirmation, whose STATUS follows from the byte read (R150). -/
theorem Transacts.confirms (h : Transacts touched sent 0 s u) (hu : u.eng = s.eng)
    (ha : s.env.answers = b :: rest) (hstat : touched s.cfg.aStat.toNat) (code : BitVec 3) (opc : Byte) (ph : Phase) :
    ReportsStatus touched (readBytes s.cfg.aStat 1 :: sent) b rest (confirmStatus code b) s
      (confirm code (goto opc ph (readStatus u))) := by
  have hlatch : (goto opc ph (readStatus u)).eng.rxByte = b := h.readByte_eq ha
  rw [confirm_eq, hlatch]
  exact h.reportsStatus hu ha hstat _ opc ph

end

/-! ### The commands -/

/-- Settles O17: three writes that read nothing, and the confirmation of Normal. -/
theorem mnormalRequestsAndConfirms : Obligations.MnormalRequestsAndConfirms := by
  intro s b rest hs ha
  have hctrl := Transacts.writeOne (a := s.cfg.aCtrl) (b := s.cfg.reqNormal)
    (touched := fun x => x = s.cfg.aCtrl.toNat ∨ x = s.cfg.aIntf.toNat ∨ x = s.cfg.aInte.toNat ∨ x = s.cfg.aStat.toNat)
    s (.inl rfl)
  have hintf := hctrl.trans (.writeOne (a := s.cfg.aIntf) (b := 0x00) _ (.inr (.inl rfl)))
  have hinte := hintf.trans
    (.writeBit (a := s.cfg.aInte) (idx := s.cfg.wakieBit) (value := false) _ (.inr (.inr (.inl rfl))))
  have hdone := hinte.confirms rfl ha (.inr (.inr (.inr rfl))) codeNormal Opc.mnormal (.line 4)
  refine ⟨_, execs_straightLine (i := .mnormal) (fun _ _ _ => rfl)
      ⟨.memWrite .., .memWrite (·.aIntf) fun _ => 0x00, .writeBit .., .readStatus⟩ hs,
    hdone.host, hdone.eng, hdone.cfg, ?sent, hdone.env, ?cleared, hdone.regs⟩
  case sent =>
    rw [← bitMask_eq]
    exact hdone.sent
  case cleared =>
    intro hinte hstat
    rw [confirm_eq]
    exact (Memory.read_write_other _ _ (mt BitVec.toNat_inj.mp hstat)).trans
      ((Memory.read_write_other _ _ (mt BitVec.toNat_inj.mp hinte)).trans (Memory.read_write_same _ _ _))

/-- Settles O18: one write that reads nothing, and the confirmation of ReceiveOnly. -/
theorem mrxonlyRequestsAndConfirms : Obligations.MrxonlyRequestsAndConfirms := by
  intro s b rest hs ha
  have hctrl := Transacts.writeOne (a := s.cfg.aCtrl) (b := s.cfg.reqReceiveOnly)
    (touched := fun x => x = s.cfg.aCtrl.toNat ∨ x = s.cfg.aStat.toNat) s (.inl rfl)
  have hdone := hctrl.confirms rfl ha (.inr rfl) codeReceiveOnly Opc.mrxonly (.line 2)
  exact ⟨_, execs_straightLine (i := .mrxonly) (fun _ _ _ => rfl) ⟨.memWrite .., .readStatus⟩ hs,
    hdone.host, hdone.eng, hdone.cfg, hdone.sent, hdone.env, hdone.regs⟩

/-- Settles O19: the wake interrupt's bit-modify and the request read nothing, and the confirmation is of Sleep. -/
theorem msleepRequestsAndConfirms : Obligations.MsleepRequestsAndConfirms := by
  intro s b rest hs ha
  have hinte := Transacts.writeBit (a := s.cfg.aInte) (idx := s.cfg.wakieBit) (value := true)
    (touched := fun x => x = s.cfg.aInte.toNat ∨ x = s.cfg.aCtrl.toNat ∨ x = s.cfg.aStat.toNat) s (.inl rfl)
  have hctrl := hinte.trans (.writeOne (a := s.cfg.aCtrl) (b := s.cfg.reqSleep) _ (.inr (.inl rfl)))
  have hdone := hctrl.confirms rfl ha (.inr (.inr rfl)) codeSleep Opc.msleep (.line 3)
  refine ⟨_, execs_straightLine (i := .msleep) (fun _ _ _ => rfl) ⟨.writeBit .., .memWrite .., .readStatus⟩ hs,
    hdone.host, hdone.eng, hdone.cfg, ?sent, hdone.env, hdone.regs⟩
  case sent =>
    rw [← bitMask_eq]
    exact hdone.sent

/-- Settles O20: the status read alone, and a completion that succeeds whatever the verdict. -/
theorem awakeReportsTheVerdict : Obligations.AwakeReportsTheVerdict := by
  intro s b rest hs ha
  have hnone := Transacts.of_eng (touched := (· = s.cfg.aStat.toNat)) (s := s) s.eng
  have hdone := hnone.reportsStatus rfl ha rfl Status.succeeded Opc.awake (.line 1)
  exact ⟨_, execs_straightLine_single (fun _ => rfl) hs,
    hdone.host, hdone.eng, hdone.cfg, hdone.sent, hdone.env, hdone.regs⟩

/-! ### SETBAUD (R158) -/

/-- A rate has the entry of the table that its number names (R158). -/
theorem timingOf_eq (p : Params) (kbps : BitVec 16) :
    timingOf p kbps =
      if kbps.toNat = 100 then some p.baud.kbps100
      else if kbps.toNat = 125 then some p.baud.kbps125
      else if kbps.toNat = 250 then some p.baud.kbps250
      else if kbps.toNat = 500 then some p.baud.kbps500
      else none := by
  simp only [timingOf, ← BitVec.toNat_inj]
  rfl

theorem timingOf_supported {p : Params} {kbps : BitVec 16} {c : Timing}
    (h : (kbps.toNat, c) ∈ [(100, p.baud.kbps100), (125, p.baud.kbps125), (250, p.baud.kbps250), (500, p.baud.kbps500)]) :
    timingOf p kbps = some c := by
  simp only [List.mem_cons, Prod.mk.injEq, List.not_mem_nil, or_false] at h
  rw [timingOf_eq]
  obtain ⟨hk, rfl⟩ | ⟨hk, rfl⟩ | ⟨hk, rfl⟩ | ⟨hk, rfl⟩ := h <;> simp [hk]

theorem timingOf_unsupported {p : Params} {kbps : BitVec 16} (h : kbps.toNat ∉ [100, 125, 250, 500]) :
    timingOf p kbps = none := by
  simp only [List.mem_cons, List.not_mem_nil, or_false, not_or] at h
  obtain ⟨h100, h125, h250, h500⟩ := h
  rw [timingOf_eq, if_neg h100, if_neg h125, if_neg h250, if_neg h500]

/-- The three timing writes of a table entry. -/
def timingOps (c : Timing) : List (State → State) :=
  [fun s => writeTiming s.cfg.aCnf1 c.cnf1 s, fun s => writeTiming s.cfg.aCnf2 c.cnf2 s,
   fun s => writeTiming s.cfg.aCnf3 c.cnf3 s]

/-- Where the rate is supported, SETBAUD is the procedure of its timing writes. -/
theorem exec_setbaud_supported {s : State} {c : Timing} (h : timingOf s.cfg s.host.baud = some c) :
    exec .setbaud s = command Opc.setbaud (straightLine Opc.setbaud (timingOps c) finish) s := by
  simp only [exec, execSetbaud, command, h]
  rfl

/-- Where it is not, the first step rejects it. -/
theorem exec_setbaud_unsupported {s : State} (hs : s.at Opc.setbaud (.line 0)) (h : timingOf s.cfg s.host.baud = none) :
    exec .setbaud s = .next (raise .baudUnsupported s) := by
  rw [exec, execSetbaud, command_run hs, h]

/-- A timing write is one write of its register (R158). -/
theorem Transacts.writeTiming {touched : Nat → Prop} {a b : Byte} (s : State) (ha : touched a.toNat) :
    Transacts touched [writeBytes a [b]] 0 s (Machine.writeTiming a b s) where
  host := rfl
  cfg := rfl
  env := ⟨_, _, rfl⟩
  sent := rfl
  regs _ hx := writeRegister_read_other _ _ _ s fun he => hx (he ▸ ha)

/-- The record of the mode after a timing write: a write of the control register leaves none known (R150). -/
theorem writeTiming_mode (a b : Byte) (s : State) :
    (writeTiming a b s).ctl.mode = if a = s.cfg.aCtrl then none else s.ctl.mode := by
  simp [burst, Controller.store, BitVec.toNat_inj]

theorem writeTiming_mode_keeps {s : State} {a : Byte} (h : a ≠ s.cfg.aCtrl) (b : Byte) :
    (writeTiming a b s).ctl.mode = s.ctl.mode := (writeTiming_mode a b s).trans (if_neg h)

/-- No timing write enters Configuration (R157). -/
theorem writeTiming_mode_ne {s : State} (h : s.ctl.mode ≠ some .configuration) (a b : Byte) :
    (writeTiming a b s).ctl.mode ≠ some .configuration := by
  rw [writeTiming_mode]
  split
  · exact nofun
  · exact h

/-- Outside Configuration a timing write leaves its register to the oracle (R160). -/
theorem writeTiming_read_none {s : State} (h : s.ctl.mode ≠ some .configuration) (a b : Byte) {x : Nat}
    (hx : x = a.toNat ∨ s.ctl.cr.read x = none) : (writeTiming a b s).ctl.cr.read x = none := by
  by_cases hxa : x = a.toNat
  · rw [hxa, writeTiming_eq, writeRegister_read, beq_false_of_ne h]
    rfl
  · exact (writeRegister_read_other _ _ _ s hxa).trans (hx.resolve_left hxa)

/-- In Configuration it is recorded (R67; log 7). -/
theorem writeTiming_read {s : State} (h : s.ctl.mode = some .configuration) (a b : Byte) :
    (writeTiming a b s).ctl.cr.read a.toNat = some b := by
  rw [writeTiming_eq, writeRegister_read, h]
  rfl

theorem writeTiming_read_other {s : State} {a x : Byte} (b : Byte) (h : x ≠ a) :
    (writeTiming a b s).ctl.cr.read x.toNat = s.ctl.cr.read x.toNat :=
  writeRegister_read_other _ _ _ s (mt BitVec.toNat_inj.mp h)

/-- The three timing writes of a table entry, made one after another (R158). -/
def setTiming (c : Timing) (s : State) : State :=
  writeTiming s.cfg.aCnf3 c.cnf3 (writeTiming s.cfg.aCnf2 c.cnf2 (writeTiming s.cfg.aCnf1 c.cnf1 s))

theorem transacts_setTiming (c : Timing) (s : State) :
    Transacts (fun x => x = s.cfg.aCnf1.toNat ∨ x = s.cfg.aCnf2.toNat ∨ x = s.cfg.aCnf3.toNat)
      [writeBytes s.cfg.aCnf3 [c.cnf3], writeBytes s.cfg.aCnf2 [c.cnf2], writeBytes s.cfg.aCnf1 [c.cnf1]] 0 s
      (setTiming c s) :=
  ((Transacts.writeTiming s (.inl rfl)).trans (.writeTiming _ (.inr (.inl rfl)))).trans (.writeTiming _ (.inr (.inr rfl)))

/-- Outside Configuration nothing is known of the three registers afterwards: each is forgotten by its own write, and no
later write lists it again (R160). -/
theorem setTiming_outside {s : State} (h : s.ctl.mode ≠ some .configuration) (c : Timing) :
    ∀ a ∈ [s.cfg.aCnf1, s.cfg.aCnf2, s.cfg.aCnf3], (setTiming c s).ctl.cr.read a.toNat = none := by
  have h₁ := writeTiming_mode_ne h s.cfg.aCnf1 c.cnf1
  have h₂ := writeTiming_mode_ne h₁ s.cfg.aCnf2 c.cnf2
  have hcnf1 := writeTiming_read_none h s.cfg.aCnf1 c.cnf1 (.inl rfl)
  have hcnf2 := writeTiming_read_none h₁ s.cfg.aCnf2 c.cnf2 (.inl rfl)
  have hlast (x : Nat) := writeTiming_read_none (x := x) h₂ s.cfg.aCnf3 c.cnf3
  simp only [List.forall_mem_cons, List.not_mem_nil, false_implies, implies_true, and_true]
  exact ⟨hlast _ (.inr (writeTiming_read_none h₁ _ _ (.inr hcnf1))), hlast _ (.inr hcnf2), hlast _ (.inl rfl)⟩

/-- Settles O21: a supported rate makes its three timing writes one after another, and any other is rejected at once. -/
theorem setbaudProgramsSupportedRates : Obligations.SetbaudProgramsSupportedRates := by
  refine fun s hs => ⟨fun kbps c hc hk => ?supported,
    fun hk => exec_setbaud_unsupported hs (timingOf_unsupported hk)⟩
  subst hk
  have hexec (u : State) (hhost : u.host = s.host) (hcfg : u.cfg = s.cfg) :=
    exec_setbaud_supported (s := u) (c := c) (by rw [hhost, hcfg]; exact timingOf_supported hc)
  have hset := transacts_setTiming c s
  refine ⟨finish (setTiming c s),
    execs_straightLine (ops := timingOps c) hexec ⟨.writeTiming .., .writeTiming .., .writeTiming ..⟩ hs,
    rfl, rfl, rfl, hset.sent, rfl, fun hmode => setTiming_outside hmode c,
    fun hmode => ⟨fun h1 h2 => ?cnf3, fun h1 h23 => ?cnf2, fun h12 h13 => ?cnf1⟩, hset.regs⟩
  case cnf3 =>
    have hmode₁ := (writeTiming_mode_keeps h1 c.cnf1).trans hmode
    have hmode₂ := (writeTiming_mode_keeps (s := writeTiming s.cfg.aCnf1 c.cnf1 s) h2 c.cnf2).trans hmode₁
    exact writeTiming_read hmode₂ _ _
  case cnf2 =>
    exact (writeTiming_read_other _ h23).trans (writeTiming_read ((writeTiming_mode_keeps h1 _).trans hmode) _ _)
  case cnf1 =>
    exact (writeTiming_read_other _ h13).trans ((writeTiming_read_other _ h12).trans (writeTiming_read hmode _ _))

end Sys2Proof.Machine
end

section
/-!
SUPPORT. What one step does to the controller's record and to the trace (20_memory.md R65): nothing, or what one transaction
does; and what follows for the record of the mode (10_state.md R43, R51; 43_mode_control.md R157; log 9).
-/
namespace Sys2Proof.Machine

/-- One step's access to the controller, by the record and the trace that it leaves: none, or one transaction (R65 to
R69). -/
inductive Access (s : State) : Controller → List Transaction → Prop
  | silent : Access s s.ctl s.env.trace
  | read (a : Byte) (n : Nat) : Access s (memRead a n s).ctl (memRead a n s).env.trace
  | write (a : Byte) (v : List Byte) : Access s (memWrite a v s).ctl (memWrite a v s).env.trace
  | writeRegister (honoured : Bool) (a b : Byte) :
    Access s (writeRegister honoured a b s).ctl (writeRegister honoured a b s).env.trace
  | bitMod (a m v : Byte) : Access s (bitMod a m v s).ctl (bitMod a m v s).env.trace
  | reset : Access s (ctlReset s).ctl (ctlReset s).env.trace

/-- One step from `s` to `t` makes one access or none. -/
abbrev Accesses (s t : State) : Prop := Access s t.ctl t.env.trace

section

variable {opc : Byte} {ph : Phase} {s t : State}

/-- No access looks at the port or at the inputs to come. -/
theorem Access.of_agent {port : Option (List Byte)} {inputs : List Input} {c : Controller} {trace : List Transaction}
    (h : Access { s with env := { s.env with port := port, inputs := inputs } } c trace) : Access s c trace := by
  cases h with
  | silent => exact .silent
  | read a n => exact .read a n
  | write a v => exact .write a v
  | writeRegister honoured a b => exact .writeRegister honoured a b
  | bitMod a m v => exact .bitMod a m v
  | reset => exact .reset

/-! ### The commands -/

/-- A procedure without labels makes one of its transactions, or completes. -/
theorem straightLine_accesses {ops : List (State → State)} {complete : State → State}
    (h : straightLine opc ops complete ph s = .next t)
    (hops : ops.Forall fun op => Accesses s (op s)) (hcomplete : Accesses s (complete s)) : Accesses s t := by
  obtain ⟨k, op, -, hop, rfl⟩ | ⟨-, rfl⟩ := straightLine_next h
  · exact List.forall_iff_forall_mem.mp hops op (List.mem_of_getElem? hop)
  · exact hcomplete

theorem encctlStep_accesses (s : State) : Accesses s (encctlStep s) := by
  unfold encctlStep
  split <;> exact .silent

theorem decctlStep_accesses (s : State) : Accesses s (decctlStep s) := by
  unfold decctlStep
  split <;> exact .silent

theorem confirm_accesses (code : BitVec 3) (s : State) : Accesses s (confirm code s) := by
  unfold confirm
  split <;> exact .silent

/-- The payload burst is one read, or none for an empty payload (R178). -/
theorem readPayload_accesses (s : State) : Accesses s (readPayload s) := by
  unfold readPayload
  dsimp only
  split
  · exact .silent
  · exact .read ..

/-- The payload write is one write, or none for an empty payload (R194). -/
theorem writePayload_accesses (s : State) : Accesses s (writePayload s) := by
  unfold writePayload
  dsimp only
  split
  · exact .silent
  · exact .write ..

/-- What follows the last header read makes no further access (R176). -/
theorem Access.decodeHeader (h : Accesses s t) (opc : Byte) : Accesses s (decodeHeader opc t) := by
  unfold Machine.decodeHeader
  split <;> exact h

theorem recvReturn_accesses (r : RxResult) (s : State) : Accesses s (recvReturn r s) := by
  cases r <;> exact .silent

theorem sniffReturn_accesses (r : RxResult) (s : State) : Accesses s (sniffReturn r s) := by
  cases r <;> exact .silent

theorem recvfReturn_accesses (r : RxResult) (s : State) : Accesses s (recvfReturn r s) := by
  cases r with
  | expired =>
    simp only [recvfReturn, recvfExpired]
    split <;> exact .silent
  | badDlc => exact .silent
  | frame =>
    simp only [recvfReturn, recvfFrame]
    split <;> exact .silent

/-- A base receive polls, reads its header and payload, and clears the flag, one access in each phase (R180). -/
theorem receive_accesses {policy : Policy} {onReturn : RxResult → State → State}
    (hreturn : ∀ r s, Accesses s (onReturn r s)) (h : receive opc policy onReturn ph s = .next t) : Accesses s t := by
  obtain ⟨hph, rfl⟩ := receive_next h
  cases ph with
  | s0 =>
    simp only [receiveStep]
    split <;> exact .silent
  | sp =>
    have hpoll : Accesses s (poll s) := .read s.cfg.aIntf 1
    simp only [receiveStep, receivePoll]
    split
    · exact hpoll
    · split <;> exact hpoll
  | st =>
    simp only [receiveStep, receiveClock]
    split <;> exact .silent
  | sh k =>
    have hheader : Accesses s (readHeader k s) := .read (rxHeaderAddr s.cfg k) 1
    simp only [receiveStep]
    split
    · exact hheader
    · exact hheader.decodeHeader opc
  | sd => exact readPayload_accesses s
  | sxc | sxb => exact .bitMod s.cfg.aIntf (bitMask s.cfg.rxfBit) 0
  | ret r => exact hreturn r s
  | line _ | th _ | td | tr | ts | ta | tc _ | fin _ => cases hph

/-- XMIT writes its header and payload, requests, polls, aborts and clears, one access in each phase (R194). -/
theorem xmitBody_accesses (h : xmitBody ph s = .next t) : Accesses s t := by
  obtain ⟨hph, rfl⟩ := xmitBody_next h
  cases ph with
  | s0 =>
    simp only [xmitStep, xmitCheck]
    split <;> exact .silent
  | th k =>
    have hheader : Accesses s (writeHeader k s) := .write ..
    simp only [xmitStep]
    split <;> exact hheader
  | td => exact writePayload_accesses s
  | tr | ta | tc => exact .bitMod ..
  | ts => exact .silent
  | sp =>
    have hpoll : Accesses s (poll s) := .read s.cfg.aIntf 1
    simp only [xmitStep, xmitPoll]
    split <;> exact hpoll
  | st =>
    simp only [xmitStep, xmitClock]
    split <;> exact .silent
  | fin w => cases w <;> exact .silent
  | line _ | sh _ | sd | sxc | sxb | ret _ => cases hph

theorem command_accesses {body : Phase → State → Outcome} (hbody : ∀ ph, body ph s = .next t → Accesses s t)
    (h : command opc body s = .next t) : Accesses s t := by
  obtain ⟨-, rfl⟩ | ⟨ph, -, hb⟩ | ⟨-, -, -, -, rfl⟩ := command_next h
  · exact .silent
  · exact hbody ph hb
  · exact .silent

theorem command_straightLine_accesses {ops : List (State → State)} {complete : State → State}
    (h : command opc (straightLine opc ops complete) s = .next t)
    (hops : ops.Forall fun op => Accesses s (op s)) (hcomplete : Accesses s (complete s)) : Accesses s t :=
  command_accesses (fun _ hb => straightLine_accesses hb hops hcomplete) h

/-- SETBAUD makes a timing write, or none where it completes or rejects the rate (R158). -/
theorem execSetbaud_accesses (h : execSetbaud s = .next t) : Accesses s t := by
  refine command_accesses (fun ph hb => ?_) h
  split at hb
  · cases hb
    exact .silent
  · exact straightLine_accesses hb trivial .silent
  · exact straightLine_accesses hb ⟨.writeRegister .., .writeRegister .., .writeRegister ..⟩ .silent

/-- RECVF sets its count to 0, and then runs its base receives (R190). -/
theorem execRecvf_accesses (h : execRecvf s = .next t) : Accesses s t := by
  refine command_accesses (fun ph hb => ?_) h
  split at hb
  · cases hb
    exact .silent
  · exact receive_accesses recvfReturn_accesses hb

/-- One step of an instruction makes at most one access. -/
theorem exec_accesses {i : Instr} (h : exec i s = .next t) : Accesses s t := by
  have hstatus : Accesses s (readStatus s) := .read s.cfg.aStat 1
  cases i with
  | encid | decid => exact command_straightLine_accesses h trivial .silent
  | encctl => exact command_straightLine_accesses h trivial (encctlStep_accesses s)
  | decctl => exact command_straightLine_accesses h trivial (decctlStep_accesses s)
  | rdreg => exact command_straightLine_accesses h (Access.read s.host.regAddr 1) .silent
  | wrreg => exact command_straightLine_accesses h (Access.writeRegister ..) .silent
  | wrbit => exact command_straightLine_accesses h (Access.bitMod ..) .silent
  | creset => exact command_straightLine_accesses h Access.reset .silent
  | mnormal =>
    exact command_straightLine_accesses h ⟨.write .., .write .., .bitMod .., hstatus⟩ (confirm_accesses _ s)
  | mrxonly => exact command_straightLine_accesses h ⟨.write .., hstatus⟩ (confirm_accesses _ s)
  | msleep => exact command_straightLine_accesses h ⟨.bitMod .., .write .., hstatus⟩ (confirm_accesses _ s)
  | awake => exact command_straightLine_accesses h hstatus .silent
  | setbaud => exact execSetbaud_accesses h
  | recv => exact command_accesses (fun _ => receive_accesses recvReturn_accesses) h
  | sniff => exact command_accesses (fun _ => receive_accesses sniffReturn_accesses) h
  | recvf => exact execRecvf_accesses h
  | xmit => exact command_accesses (fun _ => xmitBody_accesses) h
  | ctlReset =>
    cases h
    exact .reset
  | ctlRead addr n =>
    cases h
    exact .read addr n
  | ctlWrite addr data =>
    cases h
    exact .write addr data
  | ctlBitmod addr mask value =>
    cases h
    exact .bitMod addr mask value
  | ctlReadRxBuffer | ctlLoadTxBuffer | ctlRequestToSend | ctlReadStatus => cases h

/-! ### Whoever moves -/

theorem engineStep_accesses (h : engineStep s = .next t) : Accesses s t := by
  unfold engineStep at h
  split at h
  · cases h
    exact .silent
  · split at h
    · exact exec_accesses h
    · cases h
      exact .silent

theorem portStep_accesses {bytes : List Byte} (h : portStep bytes s = .next t) : Accesses s t := by
  unfold portStep at h
  split at h
  · exact exec_accesses h
  · cases h

/-- A host write does not reach the controller: an accepted command does so in later steps (R212). -/
theorem hostWriteIdle_ctl (offset : Nat) (v : Word) (s : State) : (hostWriteIdle offset v s).ctl = s.ctl := by
  unfold hostWriteIdle
  split
  · rfl
  · split <;> rfl

theorem hostWait_ctl (s : State) : (hostWait s).ctl = s.ctl := by
  unfold hostWait
  dsimp only
  split <;> rfl

/-- A move that keeps the record and the trace makes no access. -/
theorem Access.of_eq (hctl : t.ctl = s.ctl) (htrace : t.env.trace = s.env.trace) : Accesses s t := by
  rw [Accesses, hctl, htrace]
  exact .silent

theorem hostRead_accesses {offset width : Nat} (h : hostRead offset width s = .next t) : Accesses s t := by
  unfold hostRead at h
  split at h
  · cases h
    exact .silent
  · cases h

theorem hostWrite_accesses {offset width : Nat} {v : Word} (h : hostWrite offset width v s = .next t) :
    Accesses s t := by
  refine .of_eq ?_ (hostWrite_trace h)
  unfold hostWrite at h
  split at h
  · cases h
    split
    · rfl
    · exact hostWriteIdle_ctl offset v s
  · cases h

/-- Every move of an agent is an access, but for the block reset and the power-on. -/
theorem inputStep_accesses {i : Input} (h : inputStep i s = .next t) (hreset : i ≠ .blockReset)
    (hpower : i ≠ .controllerPowerOn) : Accesses s t := by
  cases i with
  | read => exact hostRead_accesses h
  | write => exact hostWrite_accesses h
  | wait =>
    cases h
    exact .of_eq (hostWait_ctl s) (hostWait_trace s)
  | engine => exact engineStep_accesses h
  | blockReset => exact absurd rfl hreset
  | controllerPowerOn => exact absurd rfl hpower

/-- What a step does to the record and to the trace: the block reset and the power-on change the record without a
transaction (R231, R53), and every other step is an access. -/
inductive StepEffect (s t : State) : Prop
  | access (h : Accesses s t)
  | blockReset {rest : List Input} (hinputs : s.env.inputs = .blockReset :: rest) (hctl : t.ctl = ctlAfterReset s)
    (htrace : t.env.trace = s.env.trace)
  | powerOn {rest : List Input} (hport : s.env.port = none) (hinputs : s.env.inputs = .controllerPowerOn :: rest)
    (htrace : t.env.trace = s.env.trace)

theorem step_effect (h : step s = .next t) : StepEffect s t := by
  cases hport : s.env.port with
  | some bytes => exact .access (portStep_accesses (step_of_port hport ▸ h)).of_agent
  | none =>
    cases hinputs : s.env.inputs with
    | nil => exact .access (engineStep_accesses (step_of_no_input hport hinputs ▸ h))
    | cons i rest =>
      rw [step_of_input hport hinputs] at h
      by_cases hreset : i = .blockReset
      · subst hreset
        cases h
        exact .blockReset hinputs rfl rfl
      · by_cases hpower : i = .controllerPowerOn
        · subst hpower
          cases h
          exact .powerOn hport hinputs rfl
        · exact .access (inputStep_accesses h hreset hpower).of_agent

/-! ### The record of the mode -/

/-- What the record of the mode and the trace may be after an access (log 9): Configuration is entered by the controller
reset alone (R157), a request leaves no mode known (R150), a status read settles the mode (R43), and where no transaction
is made the record is kept. -/
structure RecordsMode (s : State) (mode : Option CtlMode) (trace : List Transaction) : Prop where
  configuration : mode = some .configuration →
    s.ctl.mode = some .configuration ∨ ∃ x, trace = x :: s.env.trace ∧ x.sent = [0xC0]
  request : ∀ x b, trace = x :: s.env.trace → x.sent = [0x02, s.cfg.aCtrl, b] → mode = none
  status : ∀ x d0 d1 b, trace = x :: s.env.trace → x.sent = [0x03, s.cfg.aStat, 0x00] → x.received = [d0, d1, b] →
    mode = reportedMode b
  silent : trace = s.env.trace → mode = s.ctl.mode

/-- A step that keeps the trace has made no transaction. -/
theorem no_transaction_of_trace_eq (h : t.env.trace = s.env.trace) (x : Transaction) :
    t.env.trace ≠ x :: s.env.trace := fun hx => List.cons_ne_self x s.env.trace (hx.symm.trans h)

namespace RecordsMode

/-- An access that keeps both. -/
theorem unchanged (s : State) : RecordsMode s s.ctl.mode s.env.trace where
  configuration := .inl
  request x _ h := absurd h (no_transaction_of_trace_eq rfl x)
  status x _ _ _ h := absurd h (no_transaction_of_trace_eq rfl x)
  silent _ := rfl

/-- One transaction `x` that leaves the mode as its bytes say. -/
theorem of_transaction {mode : Option CtlMode} (x : Transaction)
    (hconf : mode = some .configuration → s.ctl.mode = some .configuration ∨ x.sent = [0xC0])
    (hreq : ∀ b, x.sent = [0x02, s.cfg.aCtrl, b] → mode = none)
    (hstat : ∀ d0 d1 b, x.sent = [0x03, s.cfg.aStat, 0x00] → x.received = [d0, d1, b] → mode = reportedMode b) :
    RecordsMode s mode (x :: s.env.trace) where
  configuration h := (hconf h).imp_right fun hx => ⟨x, rfl, hx⟩
  request y b hy hs := by
    obtain ⟨rfl, -⟩ := List.cons.inj hy
    exact hreq b hs
  status y d0 d1 b hy hs hr := by
    obtain ⟨rfl, -⟩ := List.cons.inj hy
    exact hstat d0 d1 b hs hr
  silent h := absurd h (List.cons_ne_self _ _)

end RecordsMode

/-- No status byte reports Configuration: its code is not in the source (N6). -/
theorem modeOfStatus_ne_configuration (b : Byte) : modeOfStatus b ≠ some .configuration := by
  unfold modeOfStatus
  split_ifs <;> exact nofun

/-- A read cannot enter Configuration (R157). -/
theorem memRead_configuration {a : Byte} {n : Nat} (h : (memRead a n s).ctl.mode = some .configuration) :
    s.ctl.mode = some .configuration := by
  refine burst_keeps (fun c => c.mode = some .configuration → s.ctl.mode = some .configuration) _
    (fun x b c _ hc hmode => ?_) (readData n s) a.toNat s.ctl a.isLt id h
  simp only [Controller.observe] at hmode
  split at hmode
  · exact absurd hmode (modeOfStatus_ne_configuration b)
  · exact hc hmode

theorem store_configuration {p : Params} {a : Nat} {b : Byte} {c : Controller}
    (h : (Controller.store p a b c).mode = some .configuration) : c.mode = some .configuration := by
  simp only [Controller.store] at h
  split at h
  · cases h
  · exact h

/-- A write cannot enter Configuration (R157). -/
theorem memWrite_configuration {a : Byte} {v : List Byte} (h : (memWrite a v s).ctl.mode = some .configuration) :
    s.ctl.mode = some .configuration :=
  burst_keeps (fun c => c.mode = some .configuration → s.ctl.mode = some .configuration) _
    (fun _ _ _ _ hc hmode => hc (store_configuration hmode)) v a.toNat s.ctl a.isLt id h

/-- A block reset keeps the record or drops it, and so does not enter Configuration (R230, R231; log 18). -/
theorem ctlAfterReset_configuration (h : (ctlAfterReset s).mode = some .configuration) :
    s.ctl.mode = some .configuration := by
  unfold ctlAfterReset at h
  split at h
  · exact h
  · cases h

/-- A read of the status register alone settles the mode by its byte, the third received (R43, R83). -/
theorem recordsMode_memRead (a : Byte) (n : Nat) (s : State) :
    RecordsMode s (memRead a n s).ctl.mode (memRead a n s).env.trace := by
  refine .of_transaction ⟨readBytes a n, s.env.slots 2 ++ readData n s⟩ (fun h => .inl (memRead_configuration h))
    (fun b hsent => ?request) fun d0 d1 b hsent hreceived => ?status
  case request => cases hsent
  case status =>
    obtain rfl : n = 1 := by simpa [readBytes, zeros] using congrArg List.length hsent
    obtain rfl : a = s.cfg.aStat := (List.cons.inj (List.cons.inj hsent).2).1
    obtain rfl : readByte s = b := (List.cons.inj (List.cons.inj (List.cons.inj hreceived).2).2).1
    simp [burst, Controller.observe, modeOfStatus_eq]

/-- A write of the control register leaves no mode known (R150). -/
theorem recordsMode_memWrite (a : Byte) (v : List Byte) (s : State) :
    RecordsMode s (memWrite a v s).ctl.mode (memWrite a v s).env.trace := by
  refine .of_transaction ⟨writeBytes a v, s.env.slots (v.length + 2)⟩ (fun h => .inl (memWrite_configuration h))
    (fun b hsent => ?request) fun d0 d1 b hsent _ => ?status
  case request =>
    obtain ⟨rfl, rfl⟩ : a = s.cfg.aCtrl ∧ v = [b] := List.cons.inj (List.cons.inj hsent).2
    simp [burst, Controller.store]
  case status => cases hsent

/-- A bit-modify is neither a request nor a status read of the layouts of R150, and cannot enter Configuration (R157). -/
theorem recordsMode_bitMod (a m v : Byte) (s : State) :
    RecordsMode s (bitMod a m v s).ctl.mode (bitMod a m v s).env.trace :=
  .of_transaction ⟨bitmodBytes a m v, s.env.slots 4⟩ (fun h => .inl (store_configuration h)) nofun nofun

/-- What an access does to the record of the mode. -/
theorem Access.recordsMode {c : Controller} {trace : List Transaction} (h : Access s c trace) :
    RecordsMode s c.mode trace := by
  cases h with
  | silent => exact .unchanged s
  | read a n => exact recordsMode_memRead a n s
  | write a v => exact recordsMode_memWrite a v s
  | writeRegister honoured a b =>
    rw [writeRegister_ctl, settle_mode]
    exact recordsMode_memWrite a [b] s
  | bitMod a m v => exact recordsMode_bitMod a m v s
  | reset => exact .of_transaction ⟨resetBytes, s.env.slots 1⟩ (fun _ => .inr rfl) nofun nofun

end

/-- Settles O56: an access records the mode as its transaction says, and the two moves that change the record without one
are the block reset, which does not enter Configuration, and the power-on. -/
theorem onlyResetEntersConfiguration : Obligations.OnlyResetEntersConfiguration := by
  intro s t h
  cases step_effect h with
  | access ha =>
    have hmode := ha.recordsMode
    exact ⟨fun hconf => (hmode.configuration hconf).imp_right .inl, hmode.request, hmode.status,
      fun htrace _ => hmode.silent htrace⟩
  | @blockReset rest hinputs hctl htrace =>
    have hnone := no_transaction_of_trace_eq htrace
    exact ⟨fun hconf => .inl (ctlAfterReset_configuration (hctl ▸ hconf)), fun x _ hx => absurd hx (hnone x),
      fun x _ _ _ hx => absurd hx (hnone x), fun _ hother => absurd hinputs (hother rest).1⟩
  | @powerOn rest hport hinputs htrace =>
    have hnone := no_transaction_of_trace_eq htrace
    exact ⟨fun _ => .inr (.inr ⟨hport, rest, hinputs⟩), fun x _ hx => absurd hx (hnone x),
      fun x _ _ _ hx => absurd hx (hnone x), fun _ hother => absurd hinputs (hother rest).2⟩

end Sys2Proof.Machine
end

section
/-!
SUPPORT. The wait loop (44_poll_engine.md R172 to R175): the steps that the commands which wait under the TIMED policy
share, and the expiry test in numbers.
-/
namespace Sys2Proof.Machine

/-! ### The steps of a wait -/

/-- The poll step of a base receive goes to the header on a set flag; on a clear one it goes to the clock step under
TIMED and returns EXPIRED under ONCE (R172). -/
theorem receivePoll_eq (opc : Byte) (policy : Policy) (s : State) :
    receivePoll opc policy s =
      goto opc (if pollBit s.cfg.rxfBit s then .sh 0 else if policy = .timed then .st else .ret .expired) (poll s) := by
  unfold receivePoll
  split
  · rfl
  · cases policy <;> rfl

/-- A poll that finds RXF clear (R172). -/
theorem receivePoll_clear (opc : Byte) (policy : Policy) {s : State} (h : pollBit s.cfg.rxfBit s = false) :
    receivePoll opc policy s = goto opc (if policy = .timed then .st else .ret .expired) (poll s) := by
  rw [receivePoll_eq, h]
  rfl

/-- The clock step of a base receive (R172). -/
theorem receiveClock_eq (opc : Byte) (s : State) :
    receiveClock opc s = goto opc (if expired s then .ret .expired else .sp) (sampleClock s) := by
  unfold receiveClock
  split <;> rfl

/-- The poll step of XMIT (R197). -/
theorem xmitPoll_eq (s : State) :
    xmitPoll s = goto Opc.xmit (if pollBit s.cfg.txfBit s then .tc .set else .st) (poll s) := by
  unfold xmitPoll
  split <;> rfl

/-- The clock step of XMIT (R197). -/
theorem xmitClock_eq (s : State) :
    xmitClock s = goto Opc.xmit (if expired s then .ta else .sp) (sampleClock s) := by
  unfold xmitClock
  split <;> rfl

/-- A command that waits under TIMED makes the three steps of R172 and R173: the start sample, the poll and the clock
step. -/
structure Waiter.Waits (w : Waiter) : Prop where
  start : ∀ s : State, s.at w.opc (if w.instr = .xmit then .ts else .s0) →
    exec w.instr s = .next (goto w.opc .sp (sampleStart s))
  poll : ∀ s : State, s.at w.opc .sp →
    exec w.instr s = .next (goto w.opc (if pollBit (w.bit s.cfg) s then w.onSet else .st) (poll s))
  clock : ∀ s : State, s.at w.opc .st →
    exec w.instr s = .next (goto w.opc (if expired s then w.onExpired else .sp) (sampleClock s))
  onExpired_ne_sp : w.onExpired ≠ .sp

/-- A receiver under TIMED waits for RXF (R180, R190). -/
theorem RunsReceive.waits {i : Instr} {opc : Byte} {onReturn : RxResult → State → State}
    (hrun : RunsReceive i opc .timed onReturn) (hi : i ≠ .xmit) :
    (⟨i, opc, Params.rxfBit, .sh 0, .ret .expired⟩ : Waiter).Waits where
  start s hs := hrun s .s0 (by simpa [hi] using hs) rfl
  poll s hs := (hrun s .sp hs rfl).trans (congrArg _ (receivePoll_eq opc .timed s))
  clock s hs := (hrun s .st hs rfl).trans (congrArg _ (receiveClock_eq opc s))
  onExpired_ne_sp := nofun

/-- XMIT waits for TXF (R197). -/
theorem xmit_waits : (⟨.xmit, Opc.xmit, Params.txfBit, .tc .set, .ta⟩ : Waiter).Waits where
  start _ hs := exec_xmit hs rfl
  poll s hs := (exec_xmit hs rfl).trans (congrArg _ (xmitPoll_eq s))
  clock s hs := (exec_xmit hs rfl).trans (congrArg _ (xmitClock_eq s))
  onExpired_ne_sp := nofun

/-- RECV, RECVF and XMIT wait under TIMED. -/
theorem waits_of_mem {w : Waiter} (hw : w ∈ timedWaiters) : w.Waits := by
  simp only [timedWaiters, List.mem_cons, List.not_mem_nil, or_false] at hw
  rcases hw with rfl | rfl | rfl
  · exact recv_runsReceive.waits nofun
  · exact recvf_runsReceive.waits nofun
  · exact xmit_waits

theorem sniff_runsReceive : RunsReceive .sniff Opc.sniff .once sniffReturn := fun _ _ => exec_sniff

/-- A poll tests the next answer (R171). -/
theorem pollBit_cons {s : State} {f : Byte} {rest : List Byte} (bit : BitVec 3) (ha : s.env.answers = f :: rest) :
    pollBit bit s = f.getLsbD bit.toNat := by rw [pollBit, readByte_cons s f rest ha, bitOf]

/-! ### The expiry test (R175) -/

/-- The wrapped difference of two W-bit values as a number. -/
theorem elapsed_toNat {w : Nat} (hw : w ≤ 32) {t start : Word} (hstart : start.toNat < 2 ^ w) :
    (elapsed w t start).toNat = (t.toNat + 2 ^ w - start.toNat) % 2 ^ w := by
  obtain ⟨q, hq⟩ : 2 ^ w ∣ 2 ^ 32 := Nat.pow_dvd_pow 2 hw
  have hq0 : q ≠ 0 := fun h => by rw [h, Nat.mul_zero] at hq; exact absurd hq (by decide)
  obtain ⟨q, rfl⟩ := Nat.exists_eq_succ_of_ne_zero hq0
  have hsum : 2 ^ 32 - start.toNat + t.toNat = t.toNat + 2 ^ w - start.toNat + 2 ^ w * q := by
    rw [hq, Nat.mul_succ]
    omega
  rw [elapsed, lowBits_toNat w hw, BitVec.toNat_sub, Nat.mod_mod_of_dvd _ (Nat.pow_dvd_pow 2 hw), hsum,
    Nat.add_mul_mod_self_left]

/-- The expiry test compares TIMEOUT with the wrapped elapsed time (R172, R175). -/
theorem expired_iff {s : State} (hs : s.Sound) : expired s = true ↔ s.host.timeout.toNat ≤ elapsedMs s := by
  have hw := (Params.wf_width hs.params).2
  rw [expired, elapsedMs, decide_eq_true_iff, BitVec.le_def, elapsed_toNat hw hs.start, clockValue_toNat s hw]

/-- With TIMEOUT = 0 every clock sample expires the wait (R174). -/
theorem expired_of_timeout_zero {s : State} (h : s.host.timeout = 0) : expired s = true := by
  rw [expired, h]
  exact decide_eq_true (Nat.zero_le _)

/-- The difference modulo `m` of two values taken modulo `m` is the true difference where that is below `m`. -/
theorem mod_add_sub_mod {m a b : Nat} (hab : a ≤ b) (hlt : b - a < m) : (b % m + m - a % m) % m = b - a := by
  obtain ⟨d, rfl⟩ := Nat.exists_eq_add_of_le hab
  have hd : d < m := by omega
  have ha : a % m < m := Nat.mod_lt _ (by omega)
  rw [← Nat.mod_add_mod, Nat.add_sub_cancel_left]
  rcases Nat.lt_or_ge (a % m + d) m with hsmall | hlarge
  · rw [Nat.mod_eq_of_lt hsmall, show a % m + d + m - a % m = d + m by omega, Nat.add_mod_right, Nat.mod_eq_of_lt hd]
  · have hwrap : (a % m + d) % m = a % m + d - m := by
      rw [Nat.mod_eq_sub_mod hlarge, Nat.mod_eq_of_lt (by omega)]
    rw [hwrap, show a % m + d - m + m - a % m = d by omega, Nat.mod_eq_of_lt hd]

/-- Below 2^W ms since the start sample, the elapsed time of the next sample is that of real time (R175, R247). -/
theorem elapsedMs_eq {s : State} {t0 : Nat} (hstart : s.eng.start.toNat = t0 % 2 ^ s.cfg.clockWidth)
    (hle : t0 ≤ s.env.nextTime) (hlt : s.env.nextTime - t0 < 2 ^ s.cfg.clockWidth) :
    elapsedMs s = s.env.nextTime - t0 := by
  rw [elapsedMs, hstart]
  exact mod_add_sub_mod hle hlt

/-! ### The statements -/

/-- Settles O22: each step of the wait is one poll or one clock sample, and the phase after it is the test's. -/
theorem waitLoopStep : Obligations.WaitLoopStep := by
  have polled (s : State) := Transacts.readOne (touched := (· = s.cfg.aIntf.toNat)) s rfl
  refine ⟨fun w hw s => ⟨fun hs => ?poll, fun hs hinv => ?clock⟩, fun s hs => ?once⟩
  case poll => exact ⟨_, (waits_of_mem hw).poll s hs, rfl, rfl, rfl, rfl, rfl, (polled s).regs⟩
  case clock =>
    refine ⟨_, (waits_of_mem hw).clock s hs, rfl, rfl, rfl, ?_, rfl⟩
    simp only [goto_eng, sampleClock_eng, expired_iff hinv.sound]
  case once =>
    have hexec := (sniff_runsReceive s .sp hs rfl).trans (congrArg _ (receivePoll_eq Opc.sniff .once s))
    exact ⟨_, hexec, rfl, rfl, rfl, rfl, rfl, (polled s).regs⟩

/-- Settles O24: the poll tests the one answer given, and with TIMEOUT = 0 the clock step always expires. -/
theorem timeoutZeroMakesOnePoll : Obligations.TimeoutZeroMakesOnePoll := by
  intro w hw s f rest hs ht ha
  have hpoll := (waits_of_mem hw).poll s hs
  rw [pollBit_cons _ ha] at hpoll
  refine ⟨fun hclear => ?clear, fun hset => ?set⟩
  case clear =>
    rw [hclear] at hpoll
    have hclock := (waits_of_mem hw).clock (goto w.opc .st (poll s)) rfl
    rw [expired_of_timeout_zero (s := goto w.opc .st (poll s)) ht] at hclock
    exact ⟨_, (execs_succ hpoll).trans (execs_succ hclock), rfl, rfl, rfl, rfl⟩
  case set =>
    rw [hset] at hpoll
    exact ⟨_, hpoll, rfl, rfl, rfl, rfl⟩

/-- Settles O25: without a wrap the expiry test compares TIMEOUT with real time. -/
theorem expiryIsByRealTime : Obligations.ExpiryIsByRealTime := by
  intro w hw s t0 hinv hs hstart hle hlt
  have hne := (waits_of_mem hw).onExpired_ne_sp
  have hclock := (waits_of_mem hw).clock s hs
  have hexpired := expired_iff hinv.sound
  rw [elapsedMs_eq hstart hle hlt] at hexpired
  by_cases hdue : s.host.timeout.toNat ≤ s.env.nextTime - t0
  · rw [if_pos (hexpired.mpr hdue)] at hclock
    exact ⟨_, hclock, iff_of_true rfl hdue, iff_of_false (fun h => hne (Fsm.run.inj h).2) (by omega)⟩
  · rw [if_neg (hexpired.not.mpr hdue)] at hclock
    exact ⟨_, hclock, iff_of_false (fun h => hne (Fsm.run.inj h).2.symm) hdue, iff_of_true rfl (by omega)⟩

end Sys2Proof.Machine
end

section
/-!
SUPPORT. The start time (44_poll_engine.md R173): the step that samples it, and that no other step of an instruction
writes E.start; and the step of a base receive that leaves the count of RECVF alone (R191).
-/
namespace Sys2Proof.Machine

section

variable {opc : Byte} {ph : Phase} {s t : State}

/-! ### The steps of a base receive -/

/-- The decode after the last header read writes E.work and the phase alone among the latches (R176). -/
theorem decodeHeader_eng (opc : Byte) (s : State) :
    ∃ fsm work, (decodeHeader opc s).eng = { s.eng with fsm := fsm, work := work } := by
  unfold decodeHeader
  split
  · exact ⟨_, _, rfl⟩
  · exact ⟨_, _, rfl⟩

/-- Before its return a base receive writes no count (R191), and E.start in the start sample only (R173). -/
theorem receiveStep_latches {policy : Policy} {onReturn : RxResult → State → State} (s : State)
    (hph : receivePhase policy ph = true) (hret : ∀ r, ph ≠ .ret r) :
    (receiveStep opc policy onReturn s ph).eng.consec = s.eng.consec ∧
      ((policy = .timed → ph ≠ .s0) → (receiveStep opc policy onReturn s ph).eng.start = s.eng.start) := by
  cases ph with
  | s0 =>
    cases policy with
    | once => exact ⟨rfl, fun _ => rfl⟩
    | timed => exact ⟨rfl, fun h => absurd rfl (h rfl)⟩
  | sp =>
    rw [receiveStep, receivePoll_eq]
    exact ⟨rfl, fun _ => rfl⟩
  | st =>
    rw [receiveStep, receiveClock_eq]
    exact ⟨rfl, fun _ => rfl⟩
  | sh k =>
    rw [receiveStep]
    split
    · exact ⟨rfl, fun _ => rfl⟩
    · obtain ⟨fsm, work, heng⟩ := decodeHeader_eng opc (readHeader k s)
      rw [heng]
      exact ⟨rfl, fun _ => rfl⟩
  | sd =>
    rw [receiveStep, goto_eng, readPayload_eng]
    exact ⟨rfl, fun _ => rfl⟩
  | sxc | sxb => exact ⟨rfl, fun _ => rfl⟩
  | ret r => exact absurd rfl (hret r)
  | line _ | th _ | td | tr | ts | ta | tc _ | fin _ => cases hph

/-! ### The steps that keep E.start -/

/-- The operation does not write E.start. -/
def KeepsStart (op : State → State) : Prop := ∀ s, (op s).eng.start = s.eng.start

theorem keepsStart_recvReturn (r : RxResult) : KeepsStart (recvReturn r) := by
  intro s
  cases r <;> rfl

theorem keepsStart_sniffReturn (r : RxResult) : KeepsStart (sniffReturn r) := by
  intro s
  cases r <;> rfl

theorem keepsStart_recvfReturn (r : RxResult) : KeepsStart (recvfReturn r) := by
  intro s
  cases r with
  | frame =>
    rw [recvfReturn, recvfFrame]
    split <;> rfl
  | expired =>
    rw [recvfReturn, recvfExpired]
    split <;> rfl
  | badDlc => rfl

/-- A base receive writes E.start in the start sample only (R173). -/
theorem receive_start {policy : Policy} {onReturn : RxResult → State → State}
    (h : receive opc policy onReturn ph s = .next t) (hreturn : ∀ r, KeepsStart (onReturn r))
    (hstart : policy = .timed → ph ≠ .s0) : t.eng.start = s.eng.start := by
  obtain ⟨hph, rfl⟩ := receive_next h
  by_cases hret : ∃ r, ph = .ret r
  · obtain ⟨r, rfl⟩ := hret
    exact hreturn r s
  · exact (receiveStep_latches s hph (not_exists.mp hret)).2 hstart

/-- XMIT writes E.start in the start sample only (R173). -/
theorem xmitBody_start (h : xmitBody ph s = .next t) (hstart : ph ≠ .ts) : t.eng.start = s.eng.start := by
  obtain ⟨hph, rfl⟩ := xmitBody_next h
  cases ph with
  | s0 =>
    rw [xmitStep, xmitCheck]
    split <;> rfl
  | th k =>
    rw [xmitStep]
    split <;> rfl
  | td => rw [xmitStep, goto_eng, writePayload_eng]
  | ts => exact absurd rfl hstart
  | sp => rw [xmitStep, xmitPoll_eq]; rfl
  | st => rw [xmitStep, xmitClock_eq]; rfl
  | tr | ta | tc _ => rfl
  | fin w => cases w <;> rfl
  | line _ | sh _ | sd | sxc | sxb | ret _ => cases hph

/-- Acceptance keeps E.start, so a step of a command does where its body does. -/
theorem command_start {body : Phase → State → Outcome} (h : command opc body s = .next t)
    (hbody : ∀ ph, s.at opc ph → body ph s = .next t → t.eng.start = s.eng.start) : t.eng.start = s.eng.start := by
  obtain ⟨-, rfl⟩ | ⟨ph, hs, hb⟩ | ⟨-, -, -, -, rfl⟩ := command_next h
  · rfl
  · exact hbody ph hs hb
  · rfl

theorem straightLine_start {ops : List (State → State)} {complete : State → State}
    (h : straightLine opc ops complete ph s = .next t) (hops : ops.Forall KeepsStart)
    (hcomplete : KeepsStart complete) : t.eng.start = s.eng.start := by
  obtain ⟨k, op, -, hop, rfl⟩ | ⟨-, rfl⟩ := straightLine_next h
  · exact List.forall_iff_forall_mem.mp hops op (List.mem_of_getElem? hop) s
  · exact hcomplete s

theorem command_straightLine_start {ops : List (State → State)} {complete : State → State}
    (h : command opc (straightLine opc ops complete) s = .next t) (hops : ops.Forall KeepsStart)
    (hcomplete : KeepsStart complete) : t.eng.start = s.eng.start :=
  command_start h fun _ _ hb => straightLine_start hb hops hcomplete

theorem keepsStart_encctlStep : KeepsStart encctlStep := by
  intro s
  unfold encctlStep
  split <;> rfl

theorem keepsStart_decctlStep : KeepsStart decctlStep := by
  intro s
  unfold decctlStep
  split <;> rfl

theorem keepsStart_confirm (code : BitVec 3) : KeepsStart (confirm code) := by
  intro s
  unfold confirm
  split <;> rfl

theorem execSetbaud_start (h : execSetbaud s = .next t) : t.eng.start = s.eng.start := by
  refine command_start h fun ph _ hb => ?_
  split at hb
  · cases hb
    rfl
  · exact straightLine_start hb trivial fun _ => rfl
  · exact straightLine_start hb ⟨fun _ => rfl, fun _ => rfl, fun _ => rfl⟩ fun _ => rfl

theorem execRecvf_start (h : execRecvf s = .next t) (hstart : ¬ s.at Opc.recvf .s0) : t.eng.start = s.eng.start := by
  refine command_start h fun ph hs hb => ?_
  split at hb
  · cases hb
    rfl
  · exact receive_start hb keepsStart_recvfReturn fun _ hph => hstart (hph ▸ hs)

/-- No instruction writes E.start but in the start sample of a TIMED wait (R173). -/
theorem exec_start {i : Instr} (h : exec i s = .next t)
    (hstart : ∀ w ∈ timedWaiters, w.instr = i → ¬ s.at w.opc (if w.instr = .xmit then .ts else .s0)) :
    t.eng.start = s.eng.start := by
  cases i with
  | encid | decid => exact command_straightLine_start h trivial fun _ => rfl
  | encctl => exact command_straightLine_start h trivial keepsStart_encctlStep
  | decctl => exact command_straightLine_start h trivial keepsStart_decctlStep
  | rdreg | wrreg | wrbit | creset | awake =>
    exact command_straightLine_start h (fun _ => rfl : KeepsStart _) fun _ => rfl
  | mnormal =>
    exact command_straightLine_start h ⟨fun _ => rfl, fun _ => rfl, fun _ => rfl, fun _ => rfl⟩ (keepsStart_confirm _)
  | mrxonly => exact command_straightLine_start h ⟨fun _ => rfl, fun _ => rfl⟩ (keepsStart_confirm _)
  | msleep => exact command_straightLine_start h ⟨fun _ => rfl, fun _ => rfl, fun _ => rfl⟩ (keepsStart_confirm _)
  | setbaud => exact execSetbaud_start h
  | recv =>
    have hs0 : ¬ s.at Opc.recv .s0 := hstart _ (List.mem_cons_self ..) rfl
    exact command_start h fun ph hs hb => receive_start hb keepsStart_recvReturn fun _ hph => hs0 (hph ▸ hs)
  | sniff => exact command_start h fun ph _ hb => receive_start hb keepsStart_sniffReturn nofun
  | recvf => exact execRecvf_start h (hstart _ (List.mem_cons_of_mem _ (List.mem_cons_self ..)) rfl)
  | xmit =>
    have hts : ¬ s.at Opc.xmit .ts :=
      hstart ⟨.xmit, Opc.xmit, Params.txfBit, .tc .set, .ta⟩ (by simp [timedWaiters]) rfl
    exact command_start h fun ph hs hb => xmitBody_start hb fun hph => hts (hph ▸ hs)
  | ctlReset | ctlRead | ctlWrite | ctlBitmod =>
    cases h
    rfl
  | ctlReadRxBuffer | ctlLoadTxBuffer | ctlRequestToSend | ctlReadStatus => cases h

end

/-- Settles O23: the start sample is the step before the first poll of each waiter, XMIT's comes after its request, and
no other step writes E.start. -/
theorem startTimeSampledBeforeFirstPoll : Obligations.StartTimeSampledBeforeFirstPoll := by
  refine ⟨fun w hw s hinv hs => ?sample, fun s hs => ?request, fun i s t h => exec_start h⟩
  case sample =>
    have hwidth := (Params.wf_width hinv.params).2
    exact ⟨_, (waits_of_mem hw).start s hs, rfl, rfl, rfl, rfl, clockValue_toNat s hwidth, rfl⟩
  case request =>
    have hwrite := Transacts.writeBit (touched := (· = s.cfg.aTxctrl.toNat)) (idx := s.cfg.txreqBit) (value := true)
      s rfl
    refine ⟨_, exec_xmit hs rfl, rfl, ?_⟩
    rw [← bitMask_eq]
    exact hwrite.sent

end Sys2Proof.Machine
end

section
/-!
SUPPORT. Frames that a receive rejects (44_poll_engine.md R177), and SNIFF: its single poll, and the frame that it delivers
as RECV does (R182, R202).
-/
namespace Sys2Proof.Machine

/-! ### A rejected frame -/

/-- A header whose DLC is 9 to 15 is rejected (R177). -/
theorem decodeHeader_bad {opc : Byte} {s : State} (h : 8 < s.eng.hdr.dlcByte.toNat % 16) :
    decodeHeader opc s = goto opc .sxb s := by rw [decodeHeader, decodeControl_bad h]

section

variable {i : Instr} {opc : Byte} {policy : Policy} {onReturn : RxResult → State → State}

/-- SH0 to SH3 take four steps, whatever they read (R176). -/
theorem RunsReceive.execs_headers_four (hrun : RunsReceive i opc policy onReturn) (k : Nat) (s : State) :
    execs i (k + 4) (goto opc (.sh 0) s) =
      execs i k (goto opc (.sh 4) (readHeader 3 (readHeader 2 (readHeader 1 (readHeader 0 s))))) :=
  calc execs i (k + 4) (goto opc (.sh 0) s)
    _ = execs i (k + 3) (goto opc (.sh 1) (readHeader 0 s)) := hrun.execs_goto rfl _ _
    _ = execs i (k + 2) (goto opc (.sh 2) (readHeader 1 (readHeader 0 s))) := hrun.execs_goto rfl _ _
    _ = execs i (k + 1) (goto opc (.sh 3) (readHeader 2 (readHeader 1 (readHeader 0 s)))) := hrun.execs_goto rfl _ _
    _ = execs i k (goto opc (.sh 4) (readHeader 3 (readHeader 2 (readHeader 1 (readHeader 0 s))))) :=
      hrun.execs_goto rfl _ _

/-- From the last header read a bad DLC takes two steps to the receiver's return, with RXF cleared (R177). -/
theorem RunsReceive.execs_badHeader (hrun : RunsReceive i opc policy onReturn) (k : Nat) {s : State}
    (hs : s.at opc (.sh 4)) (hdlc : 8 < (readByte s).toNat % 16) :
    execs i (k + 2) s =
      execs i k (goto opc (.ret .badDlc) (clearFlag s.cfg.rxfBit (readHeader 4 s))) :=
  calc execs i (k + 2) s
    _ = execs i (k + 1) (decodeHeader opc (readHeader 4 s)) := execs_succ (hrun s (.sh 4) hs rfl)
    _ = execs i (k + 1) (goto opc .sxb (readHeader 4 s)) := by rw [decodeHeader_bad hdlc]
    _ = execs i k (goto opc (.ret .badDlc) (clearFlag s.cfg.rxfBit (readHeader 4 s))) := hrun.execs_goto rfl _ _

/-- A frame rejected and its flag cleared: the poll, the header reads and SXB (R177). -/
def frameRejected (s : State) : State := clearFlag s.cfg.rxfBit (readHeaders (poll s))

/-- From a poll that finds RXF set, a bad DLC takes seven steps to the receiver's return. -/
theorem RunsReceive.execs_rejected (hrun : RunsReceive i opc policy onReturn) (k : Nat) {s : State} (hs : s.at opc .sp)
    (hbit : pollBit s.cfg.rxfBit s = true) (hdlc : 8 < (readHeaders (poll s)).eng.hdr.dlcByte.toNat % 16) :
    execs i (k + 7) s = execs i k (goto opc (.ret .badDlc) (frameRejected s)) :=
  calc execs i (k + 7) s
    _ = execs i (k + 6) (goto opc (.sh 0) (poll s)) :=
      execs_succ ((hrun s .sp hs rfl).trans (congrArg _ (if_pos hbit)))
    _ = execs i (k + 2)
          (goto opc (.sh 4) (readHeader 3 (readHeader 2 (readHeader 1 (readHeader 0 (poll s)))))) :=
      hrun.execs_headers_four (k + 2) (poll s)
    _ = execs i k (goto opc (.ret .badDlc) (frameRejected s)) := hrun.execs_badHeader k rfl hdlc

end

/-- Every receiver reports BAD_DLC on a rejected frame (R180, R182, R190). -/
theorem receivers_badDlc {r : Instr × Byte} (hr : r ∈ receivers) :
    ∃ policy onReturn, RunsReceive r.1 r.2 policy onReturn ∧ ∀ s, onReturn .badDlc s = raise .badDlc s := by
  simp only [receivers, List.mem_cons, List.not_mem_nil, or_false] at hr
  rcases hr with rfl | rfl | rfl
  · exact ⟨_, _, recv_runsReceive, fun _ => rfl⟩
  · exact ⟨_, _, sniff_runsReceive, fun _ => rfl⟩
  · exact ⟨_, _, recvf_runsReceive, fun _ => rfl⟩

/-- The clear of a flag is one bit-modify at A_INTF (R179, R200). -/
theorem transacts_clearFlag {touched : Nat → Prop} {p : Params} (bit : BitVec 3) {s : State} (hcfg : s.cfg = p)
    (ha : touched p.aIntf.toNat) :
    Transacts touched [[0x05, p.aIntf, BitVec.ofNat 8 (2 ^ bit.toNat), 0x00]] 0 s (clearFlag bit s) := by
  subst hcfg
  rw [← bitMask_eq]
  exact .writeBit (idx := bit) (value := false) s ha

/-- Settles O27: the header read and the clear are two transactions, and every receiver's return reports BAD_DLC. -/
theorem receivedBadDlcIsRejected : Obligations.ReceivedBadDlcIsRejected := by
  intro r hr s b rest hs ha hdlc
  obtain ⟨policy, onReturn, hrun, hreturn⟩ := receivers_badDlc hr
  have hexec := (hrun.execs_badHeader 1 hs (by rwa [readByte_cons s b rest ha])).trans (hrun.execs_goto rfl 0 _)
  rw [receiveStep, hreturn] at hexec
  have hread := transacts_readHeader (touched := fun x => x = s.cfg.aIntf.toNat ∨ x = s.cfg.aRxdlc.toNat) 4 s (.inr rfl)
  have hclear := hread.trans (transacts_clearFlag s.cfg.rxfBit hread.cfg (.inl rfl))
  have henv := hclear.env_eq
  rw [ha] at henv
  exact ⟨_, hexec, rfl, rfl, rfl, hclear.sent, henv, hclear.regs⟩

/-! ### SNIFF -/

/-- The receive of a frame does not look at the engine's phase. -/
theorem frameReceived_goto (opc : Byte) (ph : Phase) (s : State) :
    frameReceived (goto opc ph s) = goto opc ph (frameReceived s) :=
  congrArg (clearFlag s.cfg.rxfBit) (readPayload_goto opc ph (headerReceived s))

/-- From a poll that finds a good frame SNIFF does what RECV does (R202). -/
theorem execs_sniff_eq_recv {s : State} {f h0 h1 h2 h3 h4 : Byte} {rest : List Byte}
    (ha : s.env.answers = f :: h0 :: h1 :: h2 :: h3 :: h4 :: rest) (hf : f.getLsbD s.cfg.rxfBit.toNat = true)
    (hdlc : h4.toNat % 16 ≤ 8) :
    execs .sniff 9 (goto Opc.sniff .sp s) = execs .recv 9 (goto Opc.recv .sp s) := by
  have hsniff := sniff_runsReceive.execs_deliver (s := goto Opc.sniff .sp s) rfl ha hf hdlc rfl
  have hrecv := recv_runsReceive.execs_deliver (s := goto Opc.recv .sp s) rfl ha hf hdlc rfl
  rw [hsniff, hrecv, frameReceived_goto, frameReceived_goto, finish_commit_goto, finish_commit_goto]

/-- S0 of SNIFF samples no clock (R182). -/
theorem execs_sniff_s0 {s : State} (k : Nat) (hs : s.at Opc.sniff .s0) :
    execs .sniff (k + 1) s = execs .sniff k (goto Opc.sniff .sp s) :=
  execs_succ (sniff_runsReceive s .s0 hs rfl)

/-- SNIFF ends with NO_FRAME when its one poll finds RXF clear (R182). -/
theorem execs_sniff_noFrame {s : State} (hs : s.at Opc.sniff .s0) (hbit : pollBit s.cfg.rxfBit s = false) :
    execs .sniff 3 s = .next (raise .noFrame (poll s)) :=
  calc execs .sniff 3 s
    _ = execs .sniff 2 (goto Opc.sniff .sp s) := execs_sniff_s0 2 hs
    _ = execs .sniff 1 (receivePoll Opc.sniff .once (goto Opc.sniff .sp s)) := sniff_runsReceive.execs_goto rfl _ _
    _ = execs .sniff 1 (goto Opc.sniff (.ret .expired) (poll s)) :=
      congrArg _ (receivePoll_clear Opc.sniff .once (s := goto Opc.sniff .sp s) hbit)
    _ = .next (raise .noFrame (poll s)) := sniff_runsReceive.execs_goto rfl _ _

/-- SNIFF ends with BAD_DLC when its poll finds a frame with a bad DLC (R177, R182). -/
theorem execs_sniff_badDlc {s : State} (hs : s.at Opc.sniff .s0) (hbit : pollBit s.cfg.rxfBit s = true)
    (hdlc : 8 < (readHeaders (poll s)).eng.hdr.dlcByte.toNat % 16) :
    execs .sniff 9 s = .next (raise .badDlc (frameRejected s)) :=
  calc execs .sniff 9 s
    _ = execs .sniff 8 (goto Opc.sniff .sp s) := execs_sniff_s0 8 hs
    _ = execs .sniff 1 (goto Opc.sniff (.ret .badDlc) (frameRejected (goto Opc.sniff .sp s))) :=
      sniff_runsReceive.execs_rejected 1 rfl hbit hdlc
    _ = .next (raise .badDlc (frameRejected s)) := sniff_runsReceive.execs_goto rfl _ _

/-- The transactions of a rejected frame: the poll, the five header reads and the clear, in this order (R177). -/
theorem transacts_frameRejected (s : State) :
    Transacts (fun x => x = s.cfg.aIntf.toNat ∨ ∃ k, x = (rxHeaderAddr s.cfg k).toNat)
      ([0x05, s.cfg.aIntf, BitVec.ofNat 8 (2 ^ s.cfg.rxfBit.toNat), 0x00] ::
        (headerRead s.cfg ++ [readBytes s.cfg.aIntf 1])) 6 s (frameRejected s) := by
  have polled := Transacts.readOne (a := s.cfg.aIntf)
    (touched := fun x => x = s.cfg.aIntf.toNat ∨ ∃ k, x = (rxHeaderAddr s.cfg k).toNat) s (.inl rfl)
  have headers := polled.trans (transacts_readHeaders (poll s) fun k => .inr ⟨k, rfl⟩)
  exact headers.trans (transacts_clearFlag s.cfg.rxfBit headers.cfg (.inl rfl))

/-- A rejected frame leaves every latch but E.hdr (R177). -/
theorem frameRejected_consec (s : State) : (frameRejected s).eng.consec = s.eng.consec :=
  readHeaders_consec (poll s)

/-- Settles O29: no frame is one poll; a good frame is RECV's delivery after S0; a bad one is rejected. -/
theorem sniffPollsOnce : Obligations.SniffPollsOnce := by
  intro s f rest hs ha
  have hbit := pollBit_cons s.cfg.rxfBit ha
  refine ⟨fun hclear => ?noFrame, fun h0 h1 h2 h3 h4 rest' hset hrest => ⟨fun hdlc hlen => ?frame, fun hdlc => ?badDlc⟩⟩
  case noFrame =>
    have hpoll := Transacts.readOne (touched := (· = s.cfg.aIntf.toNat)) s rfl
    have henv := hpoll.env_eq
    rw [ha] at henv
    exact ⟨3, _, execs_sniff_noFrame hs (hbit.trans hclear), rfl, rfl, rfl, hpoll.sent, henv, hpoll.regs⟩
  case frame =>
    subst hrest
    obtain ⟨t, hexec, hhost, hid, hext, heid, hlength, hrtr, hdata, hidle, hconsec, hcfg, hsent, henv, hregs⟩ :=
      recvDeliversTheFrame (.recv, Opc.recv) (List.mem_cons_self ..) false (goto Opc.recv .sp s) f h0 h1 h2 h3 h4 rest'
        rfl ha hset hdlc hlen nofun
    have hsniff := (execs_sniff_s0 9 hs).trans ((execs_sniff_eq_recv ha hset hdlc).trans hexec)
    exact ⟨10, t, hsniff, hhost, hid, hext, heid, hlength, hrtr, hdata, hidle, hconsec, hcfg, henv, hsent, hregs⟩
  case badDlc =>
    subst hrest
    have hrejected := transacts_frameRejected s
    have henv := hrejected.env_eq
    rw [ha] at henv
    have hexec := execs_sniff_badDlc hs (hbit.trans hset) (by rw [readHeaders_poll_hdr ha]; exact hdlc)
    exact ⟨9, _, hexec, congrArg (fun h : HostRegs => { h with status := Status.failed .badDlc }) hrejected.host, rfl,
      frameRejected_consec s, hrejected.cfg, henv, hrejected.sent, hrejected.regs⟩

end Sys2Proof.Machine
end

section
/-!
SUPPORT. RECVF (44_poll_engine.md R190 to R193): what follows a base receive, giving up after eight expired receives,
and running on under frames that do not match.
-/
namespace Sys2Proof.Machine

/-! ### What follows a base receive -/

/-- The count of RECVF goes up without a carry (R37). -/
theorem consec_succ_toNat {c : BitVec 4} (h : c.toNat < 7) : (c + 1).toNat = c.toNat + 1 := by
  rw [BitVec.toNat_add_of_lt (by simp; omega)]
  rfl

/-- The step of RECVF after a base receive (R190). -/
theorem exec_recvf_ret {s : State} {r : RxResult} (hs : s.at Opc.recvf (.ret r)) :
    exec .recvf s = .next (recvfReturn r s) := exec_recvf hs rfl

/-- Below seven expired receives RECVF counts one more and starts anew (R191). -/
theorem exec_recvf_again {s : State} (hs : s.at Opc.recvf (.ret .expired)) (h : s.eng.consec.toNat < 7) :
    exec .recvf s = .next (goto Opc.recvf .s0 (setConsec (s.eng.consec + 1) s)) := by
  have hfew : ¬ filterRetries ≤ (s.eng.consec + 1).toNat := by
    rw [consec_succ_toNat h, filterRetries]
    omega
  exact (exec_recvf_ret hs).trans (congrArg _ (if_neg hfew))

/-- At the eighth expired receive RECVF gives up (R191). -/
theorem exec_recvf_gives_up {s : State} (hs : s.at Opc.recvf (.ret .expired)) (h : s.eng.consec.toNat = 7) :
    exec .recvf s = .next (raise .filterExhausted (setConsec 8 s)) := by
  have hseven : s.eng.consec = 7 := BitVec.eq_of_toNat_eq h
  rw [exec_recvf_ret hs, recvfReturn, recvfExpired, hseven]
  rfl

/-- A frame that matches is committed (R192). -/
theorem exec_recvf_match {s : State} (hs : s.at Opc.recvf (.ret .frame)) (h : s.eng.work.identifier = s.host.target) :
    exec .recvf s = .next (finish (commit s)) := (exec_recvf_ret hs).trans (congrArg _ (recvfReturn_frame_match h))

/-- A frame that does not match is consumed, and the count is 0 (R191, R193). -/
theorem exec_recvf_passes {s : State} (hs : s.at Opc.recvf (.ret .frame)) (h : s.eng.work.identifier ≠ s.host.target) :
    exec .recvf s = .next (goto Opc.recvf .s0 (setConsec 0 s)) := (exec_recvf_ret hs).trans (congrArg _ (if_neg h))

/-- A step within a base receive keeps the count (R191). -/
theorem exec_recvf_consec {s t : State} {ph : Phase} (hs : s.at Opc.recvf ph) (hline : ph ≠ .line 0)
    (hret : ∀ r, ph ≠ .ret r) (h : exec .recvf s = .next t) : t.eng.consec = s.eng.consec := by
  rw [exec, execRecvf, command_run hs] at h
  split at h
  · exact absurd rfl hline
  · obtain ⟨hph, rfl⟩ := receive_next h
    exact (receiveStep_latches s hph hret).1

/-- Settles O30: each way in which a base receive returns, and the steps before its return. -/
theorem recvfCountsAndFilters : Obligations.RecvfCountsAndFilters := by
  intro s
  refine ⟨exec_recvf_line, fun hs hfew => ?again, exec_recvf_gives_up, fun hs hmatch => ?delivers, exec_recvf_passes,
    exec_recvf_ret, fun ph t => exec_recvf_consec⟩
  case again => exact ⟨_, exec_recvf_again hs hfew, rfl, consec_succ_toNat hfew⟩
  case delivers =>
    exact ⟨_, exec_recvf_match hs hmatch, rfl, rfl, fun i => committedFrame_get, rfl, rfl, rfl, rfl⟩

/-! ### No traffic (R190, R174) -/

/-- A base receive with TIMEOUT = 0 that finds no frame: the start sample, the poll and the clock sample. -/
def emptyReceive (s : State) : State := sampleClock (poll (sampleStart s))

/-- With TIMEOUT = 0 and the flag clear a base receive expires in three steps (R174). -/
theorem RunsReceive.execs_empty {i : Instr} {opc : Byte} {onReturn : RxResult → State → State}
    (hrun : RunsReceive i opc .timed onReturn) (k : Nat) {s : State} (hs : s.at opc .s0) (ht : s.host.timeout = 0)
    (hbit : pollBit s.cfg.rxfBit (sampleStart s) = false) :
    execs i (k + 3) s = execs i k (goto opc (.ret .expired) (emptyReceive s)) :=
  calc execs i (k + 3) s
    _ = execs i (k + 2) (goto opc .sp (sampleStart s)) := execs_succ (hrun s .s0 hs rfl)
    _ = execs i (k + 1) (receivePoll opc .timed (goto opc .sp (sampleStart s))) := hrun.execs_goto rfl _ _
    _ = execs i (k + 1) (goto opc .st (poll (sampleStart s))) :=
      congrArg _ (receivePoll_clear opc .timed (s := goto opc .sp (sampleStart s)) hbit)
    _ = execs i k (receiveClock opc (goto opc .st (poll (sampleStart s)))) := hrun.execs_goto rfl _ _
    _ = execs i k (goto opc (.ret .expired) (emptyReceive s)) := by
      rw [receiveClock_eq, expired_of_timeout_zero (s := goto opc .st (poll (sampleStart s))) ht]
      rfl

/-- `t` is `s` after RECVF gave up on `n` base receives that found no frame, with TIMEOUT = 0: a poll and two clock
samples each. -/
structure GaveUp (n : Nat) (s t : State) : Prop where
  host : t.host = { s.host with status := Status.failed .filterExhausted }
  fsm : t.eng.fsm = .idle
  consec : t.eng.consec = 8
  cfg : t.cfg = s.cfg
  sent : t.sent = List.replicate n [0x03, s.cfg.aIntf, 0x00] ++ s.sent
  clockGaps : t.env.clockGaps = s.env.clockGaps.drop (2 * n)
  regs : sameRegs (· = s.cfg.aIntf.toNat) s t

/-- An empty receive touches A_INTF alone. -/
theorem emptyReceive_regs (s : State) : sameRegs (· = s.cfg.aIntf.toNat) s (emptyReceive s) :=
  (Transacts.readOne (touched := (· = s.cfg.aIntf.toNat)) (sampleStart s) rfl).regs

/-- The last empty receive. -/
theorem gaveUp_one {s : State} : GaveUp 1 s (raise .filterExhausted (setConsec 8 (emptyReceive s))) :=
  ⟨rfl, rfl, rfl, rfl, rfl, List.drop_drop, emptyReceive_regs s⟩

/-- An empty receive before `n` others. -/
theorem GaveUp.succ {n : Nat} {s t : State} {c : BitVec 4}
    (h : GaveUp n (goto Opc.recvf .s0 (setConsec c (emptyReceive s))) t) : GaveUp (n + 1) s t where
  host := h.host
  fsm := h.fsm
  consec := h.consec
  cfg := h.cfg
  sent := by
    rw [h.sent, List.replicate_succ', List.append_assoc]
    rfl
  clockGaps := by
    rw [h.clockGaps]
    show List.drop _ (List.drop 1 (List.drop 1 _)) = _
    rw [List.drop_drop, List.drop_drop, show 1 + (1 + 2 * n) = 2 * (n + 1) by omega]
  regs := (emptyReceive_regs s).trans h.regs

/-- RECVF gives up when clear flags bring its count to eight: each takes four steps. -/
theorem execs_recvf_gives_up {flags : List Byte} (hne : flags ≠ []) :
    ∀ {s : State} {rest : List Byte}, s.at Opc.recvf .s0 → s.host.timeout = 0 → s.env.answers = flags ++ rest →
      (∀ f ∈ flags, f.getLsbD s.cfg.rxfBit.toNat = false) → s.eng.consec.toNat + flags.length = 8 →
      ∃ t, execs .recvf (4 * flags.length) s = .next t ∧ GaveUp flags.length s t := by
  induction flags with
  | nil => exact absurd rfl hne
  | cons f flags ih =>
    intro s rest hs ht ha hclear hcount
    have hbit : pollBit s.cfg.rxfBit (sampleStart s) = false :=
      (pollBit_cons (s := sampleStart s) _ ha).trans (hclear f (List.mem_cons_self ..))
    have hempty (k : Nat) := recvf_runsReceive.execs_empty (k + 1) hs ht hbit
    cases flags with
    | nil =>
      have hseven : s.eng.consec.toNat = 7 := Nat.succ.inj hcount
      have hreturn := exec_recvf_gives_up (s := goto Opc.recvf (.ret .expired) (emptyReceive s)) rfl hseven
      exact ⟨_, (hempty 0).trans (execs_succ hreturn), gaveUp_one⟩
    | cons f' flags =>
      simp only [List.length_cons] at hcount
      have hfew : s.eng.consec.toNat < 7 := by omega
      have hreturn := exec_recvf_again (s := goto Opc.recvf (.ret .expired) (emptyReceive s)) rfl hfew
      obtain ⟨t, hexec, hgave⟩ := ih (List.cons_ne_nil f' flags)
        (s := goto Opc.recvf .s0 (setConsec (s.eng.consec + 1) (emptyReceive s))) (rest := rest) rfl ht
        (congrArg (List.drop 1) ha) (fun g hg => hclear g (List.mem_cons_of_mem f hg))
        (by
          rw [goto_eng, setConsec_eng, consec_succ_toNat hfew, List.length_cons]
          omega)
      exact ⟨t, (hempty _).trans ((execs_succ hreturn).trans hexec), hgave.succ⟩

/-- Settles O31: the first line sets the count to 0, and eight clear flags bring it to eight. -/
theorem recvfGivesUpAfterEightTimeouts : Obligations.RecvfGivesUpAfterEightTimeouts := by
  intro s hs ht hlen hclear
  have hlength : (s.env.answers.take 8).length = 8 := List.length_take_of_le hlen
  obtain ⟨t, hexec, hgave⟩ := execs_recvf_gives_up (flags := s.env.answers.take 8)
    (List.ne_nil_of_length_pos (by omega)) (s := goto Opc.recvf .s0 (setConsec 0 s)) rfl ht
    (List.take_append_drop 8 s.env.answers).symm hclear (by rw [hlength]; rfl)
  rw [hlength] at hexec hgave
  exact ⟨t, (execs_succ (exec_recvf_line hs)).trans hexec, hgave.host, hgave.fsm, hgave.consec, hgave.cfg, hgave.sent,
    hgave.clockGaps, hgave.regs⟩

/-! ### Traffic that does not match (R193, R203) -/

/-- A frame that passes by takes ten steps, and RECVF is back at its start with the count 0 (R193). -/
theorem execs_recvf_passesBy {s : State} {a : Arrival} {rest : List Byte} (k : Nat) (hs : s.at Opc.recvf .s0)
    (hpass : a.passesBy s.cfg s.host.target) (ha : s.env.answers = a.answers ++ rest) :
    ∃ t, execs .recvf (k + 10) s = execs .recvf k t ∧ t.at Opc.recvf .s0 ∧ t.host = s.host ∧ t.eng.consec = 0 ∧
      t.cfg = s.cfg ∧ t.env.answers = rest := by
  obtain ⟨hflag, hdlc, hdata, hid⟩ := hpass
  have hstart : exec .recvf s = .next (goto Opc.recvf .sp (sampleStart s)) := exec_recvf hs rfl
  have hcfg : (goto Opc.recvf .sp (sampleStart s)).cfg = s.cfg := rfl
  have hhost : (goto Opc.recvf .sp (sampleStart s)).host = s.host := rfl
  have hp : (goto Opc.recvf .sp (sampleStart s)).env.answers =
      a.flags :: a.h0 :: a.h1 :: a.h2 :: a.h3 :: a.h4 :: (a.data ++ rest) := ha
  have hat : (goto Opc.recvf .sp (sampleStart s)).at Opc.recvf .sp := rfl
  generalize goto Opc.recvf .sp (sampleStart s) = p at *
  have hrx := transacts_frameReceived (headerReceived_dataLength hp)
  have hother : (frameReceived p).eng.work.identifier ≠ (frameReceived p).host.target := by
    rw [frameReceived_work hp, hrx.host, hhost]
    exact fun heq => hid ((decodeId_toNat _).symm.trans (congrArg BitVec.toNat heq))
  have hframe := recvf_runsReceive.execs_frame (k + 1) hat ((pollBit_cons _ hp).trans (hcfg ▸ hflag))
    (by rw [readHeaders_poll_hdr hp]; exact hdlc)
  have hreturn := exec_recvf_passes (s := goto Opc.recvf (.ret .frame) (frameReceived p)) rfl hother
  refine ⟨_, (execs_succ hstart).trans (hframe.trans (execs_succ hreturn)), rfl, hrx.host.trans hhost, rfl,
    hrx.cfg.trans hcfg, ?_⟩
  obtain ⟨d, tr, henv⟩ := hrx.env
  show (frameReceived p).env.answers = rest
  rw [henv, hp, ← List.drop_drop]
  exact List.drop_left' hdata

/-- Settles O32: each frame takes RECVF back to its start, so the list of frames does. -/
theorem recvfRunsOnUnderTraffic : Obligations.RecvfRunsOnUnderTraffic := by
  intro frames s rest hs hne hpass ha
  suffices h : frames = [] → s.eng.consec = 0 by
    clear hne
    induction frames generalizing s with
    | nil => exact ⟨s, rfl, hs, rfl, h rfl, rfl, ha⟩
    | cons a frames ih =>
      have hanswers : s.env.answers = a.answers ++ ((frames.map Arrival.answers).flatten ++ rest) := by simpa using ha
      obtain ⟨u, hexec, hu, hhost, hconsec, hcfg, hleft⟩ :=
        execs_recvf_passesBy (10 * frames.length) hs (hpass a (List.mem_cons_self ..)) hanswers
      obtain ⟨t, hrun, ht, hhost', hconsec', hcfg', hrest⟩ := ih u hu
        (fun b hb => by rw [hcfg, hhost]; exact hpass b (List.mem_cons_of_mem a hb)) hleft fun _ => hconsec
      exact ⟨t, hexec.trans hrun, ht, hhost'.trans hhost, hconsec', hcfg'.trans hcfg, hrest⟩
  exact fun hnil => absurd hnil hne

end Sys2Proof.Machine
end

section
/-!
SUPPORT. How RECV and XMIT end: RECV when the clock advances (44_poll_engine.md R203), XMIT by its abort (R199), and the
failures that make no transaction (R180, R195).
-/
namespace Sys2Proof.Machine

/-! ### RECV ends when the clock advances -/

/-- RECV after its base receive (R180). -/
theorem recvReturn_idle (r : RxResult) (s : State) : (recvReturn r s).eng.fsm = .idle := by cases r <;> rfl

/-- From its return RECV is idle in one step. -/
theorem execs_recv_ret (r : RxResult) (s : State) :
    execs .recv 1 (goto Opc.recv (.ret r) s) = .next (recvReturn r (goto Opc.recv (.ret r) s)) :=
  recv_runsReceive.execs_goto rfl _ _

/-- RECV is idle within `n` steps. -/
def RecvEnds (n : Nat) (s : State) : Prop := ∃ k t, k ≤ n ∧ execs .recv k s = .next t ∧ t.eng.fsm = .idle

/-- From a poll that finds RXF set RECV is idle within nine steps, whatever header it reads (R176, R177). -/
theorem recvEnds_of_set {s : State} (hs : s.at Opc.recv .sp) (hbit : pollBit s.cfg.rxfBit s = true) : RecvEnds 9 s := by
  rcases Nat.lt_or_ge 8 ((readHeaders (poll s)).eng.hdr.dlcByte.toNat % 16) with hbad | hgood
  · exact ⟨8, _, by decide, (recv_runsReceive.execs_rejected 1 hs hbit hbad).trans (execs_recv_ret _ _),
      recvReturn_idle _ _⟩
  · exact ⟨9, _, le_rfl, (recv_runsReceive.execs_frame 1 hs hbit hgood).trans (execs_recv_ret _ _),
      recvReturn_idle _ _⟩

/-- What holds at each poll of a wait that began at real time `t0` and has not expired, under the clock premise of R203:
every gap to come advances the clock without a wrap, and there are gaps enough to reach TIMEOUT. -/
structure Waiting (t0 : Nat) (s : State) : Prop where
  sound : s.Sound
  start : s.eng.start.toNat = t0 % 2 ^ s.cfg.clockWidth
  begun : t0 ≤ s.env.now
  early : s.env.now = t0 ∨ s.env.now - t0 < s.host.timeout.toNat
  gaps : ∀ g ∈ s.env.clockGaps, 1 ≤ g ∧ g + s.host.timeout.toNat ≤ 2 ^ s.cfg.clockWidth
  enough : s.host.timeout.toNat + 1 ≤ s.env.now - t0 + s.env.clockGaps.length

/-- The wait does not look at the engine's phase. -/
theorem Waiting.goto {t0 : Nat} {s : State} (h : Waiting t0 s) (opc : Byte) (ph : Phase) :
    Waiting t0 (goto opc ph s) :=
  ⟨(Keeps.goto opc ph s).sound h.sound, h.start, h.begun, h.early, h.gaps, h.enough⟩

/-- A poll does not move the clock. -/
theorem Waiting.poll {t0 : Nat} {s : State} (h : Waiting t0 s) : Waiting t0 (poll s) :=
  ⟨(Works.poll s).sound h.sound, h.start, h.begun, h.early, h.gaps, h.enough⟩

/-- A clock step that does not expire the wait has advanced real time, and TIMEOUT is not reached yet (R175). -/
theorem Waiting.clock {t0 : Nat} {s : State} (h : Waiting t0 s) (hexp : ¬ expired s = true) :
    Waiting t0 (sampleClock s) ∧ s.env.now < s.env.nextTime ∧ s.env.nextTime - t0 < s.host.timeout.toNat := by
  have ⟨hsound, hstart, hbegun, hearly, hgaps, henough⟩ := h
  have htimeout : s.host.timeout.toNat ≠ 0 := fun h0 =>
    hexp (expired_of_timeout_zero (BitVec.eq_of_toNat_eq h0))
  obtain ⟨g, gs, hg⟩ : ∃ g gs, s.env.clockGaps = g :: gs :=
    List.exists_cons_of_ne_nil fun hnil => by simp only [hnil, List.length_nil] at henough; omega
  have hnext : s.env.nextTime = s.env.now + g := by simp [Env.nextTime, Env.gap, hg]
  rw [hg] at hgaps henough
  obtain ⟨hpos, hwrap⟩ := hgaps g (List.mem_cons_self ..)
  rw [expired_iff hsound, elapsedMs_eq hstart (by omega) (by omega)] at hexp
  have hlt : s.env.nextTime - t0 < s.host.timeout.toNat := Nat.not_le.mp hexp
  refine ⟨⟨(Works.sampleClock s).sound hsound, hstart, ?begun, .inr hlt, ?gaps, ?enough⟩, by omega, hlt⟩
  case begun =>
    show t0 ≤ s.env.nextTime
    omega
  case gaps =>
    intro g' hg'
    rw [sampleClock_env, hg] at hg'
    exact hgaps g' (List.mem_cons_of_mem g hg')
  case enough =>
    rw [sampleClock_env, hg]
    show s.host.timeout.toNat + 1 ≤ s.env.nextTime - t0 + gs.length
    rw [List.length_cons] at henough
    omega

/-- One round of the wait: it ends the command, or two steps later RECV polls again with less time left (R172). -/
theorem recv_round {t0 : Nat} {s : State} (hs : s.at Opc.recv .sp) (h : Waiting t0 s) :
    RecvEnds 9 s ∨
      ∃ u, (∀ k, execs .recv (k + 2) s = execs .recv k u) ∧ u.at Opc.recv .sp ∧ Waiting t0 u ∧
        u.host.timeout = s.host.timeout ∧ s.env.now < u.env.now ∧ u.env.now - t0 < s.host.timeout.toNat := by
  rcases Bool.eq_false_or_eq_true (pollBit s.cfg.rxfBit s) with hset | hclear
  · exact .inl (recvEnds_of_set hs hset)
  · have hpoll : exec .recv s = .next (goto Opc.recv .st (poll s)) :=
      (recv_runsReceive s .sp hs rfl).trans (congrArg _ (receivePoll_clear Opc.recv .timed hclear))
    have hwaiting := h.poll.goto Opc.recv .st
    have hclock := recv_runsReceive (goto Opc.recv .st (poll s)) .st rfl rfl
    rw [receiveStep, receiveClock_eq] at hclock
    by_cases hexp : expired (goto Opc.recv .st (poll s)) = true
    · rw [if_pos hexp] at hclock
      exact .inl ⟨3, _, by decide, (execs_succ hpoll).trans ((execs_succ hclock).trans (execs_recv_ret _ _)),
        recvReturn_idle _ _⟩
    · rw [if_neg hexp] at hclock
      obtain ⟨hnext, hnow, hlate⟩ := hwaiting.clock hexp
      exact .inr ⟨_, fun _ => (execs_succ hpoll).trans (execs_succ hclock), rfl, hnext.goto Opc.recv .sp, rfl, hnow,
        hlate⟩

/-- With `n` milliseconds left RECV ends within `n` more rounds of two steps each, and a last one. -/
theorem recvEnds_of_waiting {t0 : Nat} (n : Nat) :
    ∀ {s : State}, s.at Opc.recv .sp → Waiting t0 s → s.host.timeout.toNat ≤ s.env.now - t0 + n →
      RecvEnds (2 * n + 12) s := by
  induction n with
  | zero =>
    intro s hs h hleft
    obtain ⟨k, t, hk, hend⟩ | ⟨u, -, -, -, -, hnow, hlate⟩ := recv_round hs h
    · exact ⟨k, t, by omega, hend⟩
    · omega
  | succ n ih =>
    intro s hs h hleft
    obtain ⟨k, t, hk, hend⟩ | ⟨u, hexec, hu, hwaiting, htimeout, hnow, hlate⟩ := recv_round hs h
    · exact ⟨k, t, by omega, hend⟩
    · have hbegun := h.begun
      obtain ⟨k, t, hk, hrun, hidle⟩ := ih hu hwaiting (by rw [htimeout]; omega)
      exact ⟨k + 2, t, by omega, (hexec k).trans hrun, hidle⟩

/-- Settles O33: the start sample begins the wait, and each round takes at least one millisecond off. -/
theorem recvEndsWhenTheClockAdvances : Obligations.RecvEndsWhenTheClockAdvances := by
  intro s g0 gaps hinv hs hclock hgaps hlen
  have hstart : exec .recv s = .next (goto Opc.recv .sp (sampleStart s)) := recv_runsReceive s .s0 hs rfl
  have hgapsLeft : (sampleStart s).env.clockGaps = gaps := congrArg (List.drop 1) hclock
  have hwaiting : Waiting s.env.nextTime (sampleStart s) :=
    { sound := (Works.sampleStart s).sound hinv.sound
      start := clockValue_toNat s (Params.wf_width hinv.params).2
      begun := le_rfl
      early := .inl rfl
      gaps := fun g hg => hgaps g (hgapsLeft ▸ hg)
      enough := hgapsLeft ▸ hlen.trans (Nat.le_add_left _ _) }
  obtain ⟨k, t, hk, hrun, hidle⟩ :=
    recvEnds_of_waiting s.host.timeout.toNat rfl (hwaiting.goto Opc.recv .sp) (Nat.le_add_left _ _)
  exact ⟨k + 1, t, by omega, (execs_succ hstart).trans hrun, hidle⟩

/-! ### XMIT's abort -/

/-- XMIT after its wait expired: TXREQ cleared, then TXF (R199, R200). -/
def xmitAborted (s : State) : State := clearFlag s.cfg.txfBit (transmitRequest false (sampleClock s))

/-- From a clock step that expires the wait XMIT takes four steps to TX_TIMEOUT (R199). -/
theorem execs_xmit_abort {s : State} (hs : s.at Opc.xmit .st) (hexp : expired s = true) :
    execs .xmit 4 s = .next (raise .txTimeout (xmitAborted s)) :=
  calc execs .xmit 4 s
    _ = execs .xmit 3 (goto Opc.xmit .ta (sampleClock s)) :=
      execs_succ ((exec_xmit hs rfl).trans (congrArg _ (if_pos hexp)))
    _ = execs .xmit 2 (goto Opc.xmit (.tc .expired) (transmitRequest false (sampleClock s))) := execs_xmit_goto rfl _ _
    _ = execs .xmit 1 (goto Opc.xmit (.fin .expired) (xmitAborted s)) := execs_xmit_goto rfl _ _
    _ = .next (raise .txTimeout (xmitAborted s)) := execs_xmit_goto rfl _ _

/-- The abort is two bit-modifies, of TXREQ and then of TXF, after the clock sample (R199). -/
theorem transacts_xmitAborted (s : State) :
    Transacts (fun x => x = s.cfg.aIntf.toNat ∨ x = s.cfg.aTxctrl.toNat)
      [[0x05, s.cfg.aIntf, BitVec.ofNat 8 (2 ^ s.cfg.txfBit.toNat), 0x00],
        [0x05, s.cfg.aTxctrl, BitVec.ofNat 8 (2 ^ s.cfg.txreqBit.toNat), 0x00]] 0 (sampleClock s) (xmitAborted s) := by
  have hrequest := Transacts.writeBit (touched := fun x => x = s.cfg.aIntf.toNat ∨ x = s.cfg.aTxctrl.toNat)
    (a := s.cfg.aTxctrl) (idx := s.cfg.txreqBit) (value := false) (sampleClock s) (.inr rfl)
  rw [bitMask_eq] at hrequest
  exact hrequest.trans (transacts_clearFlag s.cfg.txfBit hrequest.cfg (.inl rfl))

/-- Settles O35: the expired wait leads to the abort, which clears both bits. -/
theorem xmitAbortsOnTimeout : Obligations.XmitAbortsOnTimeout := by
  intro s hinv hs hdue
  have habort := transacts_xmitAborted s
  refine ⟨_, execs_xmit_abort hs ((expired_iff hinv.sound).mpr hdue), rfl, rfl, rfl, habort.sent, habort.env_eq,
    clearFlag_clears s.cfg.txfBit (transmitRequest false (sampleClock s)), fun hne => ?txreq, habort.regs⟩
  case txreq =>
    exact ⟨_, (Memory.read_write_other _ _ (mt BitVec.toNat_inj.mp hne)).trans (Memory.read_write_same _ _ _),
      mergeBits_clears _ _⟩

/-! ### Failures without a transaction -/

/-- Settles O28: the return of an expired base receive is RECV's failure. -/
theorem recvReportsTimeout : Obligations.RecvReportsTimeout := fun _ hs => exec_recv hs rfl

/-- Settles O36: S0 rejects the length before the first transaction. -/
theorem xmitRejectsBadLength : Obligations.XmitRejectsBadLength := fun _ hs hlen =>
  (exec_xmit hs rfl).trans (congrArg _ (if_pos ((Frame.badLength_iff _).mpr hlen)))

end Sys2Proof.Machine
end

section
/-!
SUPPORT. Command acceptance and completion (60_exceptions.md R211 to R214): STATUS as the host reads it, the acceptance of a
CMD write, and the two outcomes of a completion.
-/
namespace Sys2Proof.Machine

/-! ### STATUS as the host reads it (R24, R213) -/

/-- A failure's STATUS is DONE in bit 1 and the code from bit 4 on, whatever the code. -/
theorem toWord_of_failure (code : BitVec 4) :
    (⟨false, true, false, code⟩ : Status).toWord = BitVec.ofNat 32 (code.toNat * 16 + 2) := by
  revert code
  decide

/-- Settles O47: two fixed words, and the word of a failure at its code. -/
theorem statusWordAtCompletion : Obligations.StatusWordAtCompletion :=
  ⟨rfl, rfl, fun e => toWord_of_failure e.code⟩

/-! ### Acceptance (R212) -/

/-- OPC is the low byte of the word (R80), in the form that the statements write. -/
theorem opcOfWord_eq_ofNat (w : Word) : opcOfWord w = BitVec.ofNat 8 w.toNat :=
  BitVec.eq_of_toNat_eq (opcOfWord_toNat w)

/-- RECV, SNIFF and XMIT begin at S0, every other command at its first line (R212). -/
theorem firstPhase_eq (opc : Byte) :
    firstPhase opc = if opc.toNat = 0x30 ∨ opc.toNat = 0x31 ∨ opc.toNat = 0x33 then .s0 else .line 0 := by
  revert opc
  decide

/-- Settles O42: the write is the acceptance of its word, or is ignored while BUSY = 1. -/
theorem commandAcceptance : Obligations.CommandAcceptance := by
  intro s w rest hport hin
  rw [step_of_input hport hin]
  refine ⟨fun hfree => ?accepted, fun hbusy => ?ignored⟩
  case accepted =>
    have haccept : inputStep (.write 0x00 32 w) (setInputs rest s) = .next (accept w (setInputs rest s)) :=
      hostWrite_cmd w hfree
    rw [haccept, accept, firstPhase_eq, opcOfWord_toNat, opcOfWord_eq_ofNat]
    rfl
  case ignored => exact hostWrite_busy (s := setInputs rest s) rfl w hbusy

/-! ### Completion (R213) -/

theorem CmdError.code_ne_zero (e : CmdError) : e.code ≠ 0 := by cases e <;> decide

theorem Fsm.eq_idle_of_not_running {f : Fsm} (h : f.running = false) : f = .idle := by
  cases f with
  | idle => rfl
  | run => cases h

/-- What the completion of an instruction leaves in the host registers: success, a failure that writes STATUS alone, or a
mode command's failure, which writes RESULT too (R150, R213). -/
inductive Completes (i : Instr) (h : HostRegs) : HostRegs → Prop
  | succeeded {h' : HostRegs} (hst : h'.status = Status.succeeded) : Completes i h h'
  | failed (e : CmdError) : Completes i h { h with status := Status.failed e }
  | unconfirmed (hi : i ∈ [Instr.mnormal, .mrxonly, .msleep]) (e : CmdError) (r : Result) :
    Completes i h { h with status := Status.failed e, result := r }

section

variable {opc : Byte} {ph : Phase} {s t : State} {i : Instr}

theorem completes_encctlStep (s : State) : Completes i s.host (encctlStep s).host := by
  unfold encctlStep
  split
  · exact .failed _
  · exact .succeeded rfl

theorem completes_decctlStep (s : State) : Completes i s.host (decctlStep s).host := by
  unfold decctlStep
  split
  · exact .failed _
  · exact .succeeded rfl

theorem completes_confirm (hi : i ∈ [Instr.mnormal, .mrxonly, .msleep]) (code : BitVec 3) (s : State) :
    Completes i s.host (confirm code s).host := by
  unfold confirm
  split
  · exact .succeeded rfl
  · exact .unconfirmed hi _ _

theorem completes_recvReturn (r : RxResult) (s : State) : Completes i s.host (recvReturn r s).host := by
  cases r with
  | frame => exact .succeeded rfl
  | expired | badDlc => exact .failed _

theorem completes_sniffReturn (r : RxResult) (s : State) : Completes i s.host (sniffReturn r s).host := by
  cases r with
  | frame => exact .succeeded rfl
  | expired | badDlc => exact .failed _

/-- RECVF completes where it does not begin its next base receive (R190 to R193). -/
theorem completes_recvfReturn {r : RxResult} (ht : (recvfReturn r s).eng.fsm.running = false) :
    Completes i s.host (recvfReturn r s).host := by
  cases r with
  | expired =>
    simp only [recvfReturn, recvfExpired] at ht ⊢
    split at ht
    · next hgiveUp =>
      rw [if_pos hgiveUp]
      exact .failed _
    · cases ht
  | badDlc => exact .failed _
  | frame =>
    simp only [recvfReturn, recvfFrame] at ht ⊢
    split at ht
    · next hmatch =>
      rw [if_pos hmatch]
      exact .succeeded rfl
    · cases ht

theorem execRecvf_completes (h : execRecvf s = .next t) (hs : s.eng.fsm.running = true)
    (ht : t.eng.fsm.running = false) : Completes i s.host t.host := by
  obtain ⟨ph, hb⟩ := command_completes h hs ht
  split at hb
  · cases hb
    cases ht
  · obtain ⟨r, rfl⟩ := receive_completes hb ht
    exact completes_recvfReturn ht

/-- The commands that have results (R81). -/
def Instr.withResults : List Instr :=
  [.encid, .decid, .encctl, .decctl, .rdreg, .mnormal, .mrxonly, .msleep, .awake, .recv, .sniff, .recvf]

/-- An instruction without results leaves every register but STATUS (R81). -/
theorem WritesResults.eq_of_no_result {h h' : HostRegs} (hw : WritesResults i h h') (hi : i ∉ Instr.withResults) :
    h' = { h with status := h'.status } := by
  cases hw with
  | status => rfl
  | frame hres =>
    have hsub : [Instr.decid, .decctl, .recv, .sniff, .recvf] ⊆ Instr.withResults := by decide
    exact absurd (hsub hres) hi
  | result hres =>
    have hsub : [Instr.rdreg, .mnormal, .mrxonly, .msleep, .awake] ⊆ Instr.withResults := by decide
    exact absurd (hsub hres) hi
  | pack hres | packDlc hres => exact absurd (hres ▸ by decide) hi

/-- A command without results completes by writing STATUS alone. -/
theorem Runs.completes (h : Runs opc s t) (hw : WritesResults i s.host t.host) (hi : i ∉ Instr.withResults)
    (hs : s.eng.fsm.running = true) (ht : t.eng.fsm.running = false) : Completes i s.host t.host := by
  rw [hw.eq_of_no_result hi]
  cases h with
  | accept => cases ht
  | ignored => cases hs.symm.trans ht
  | move _ hm =>
    cases hm with
    | goto => cases ht
    | finish => exact .succeeded rfl
    | raise e => exact .failed e

/-- Every instruction that completes does so in one of the three ways (R213). -/
theorem exec_completes (h : exec i s = .next t) (hs : s.eng.fsm.running = true) (ht : t.eng.fsm.running = false) :
    Completes i s.host t.host := by
  have straight {opc : Byte} {ops : List (State → State)} {complete : State → State}
      (h : command opc (straightLine opc ops complete) s = .next t)
      (hcomplete : Completes i s.host (complete s).host) : Completes i s.host t.host :=
    command_straightLine_completes h hs ht ▸ hcomplete
  have receiver {opc : Byte} {policy : Policy} {onReturn : RxResult → State → State}
      (h : command opc (receive opc policy onReturn) s = .next t)
      (hreturn : ∀ r, Completes i s.host (onReturn r s).host) : Completes i s.host t.host := by
    obtain ⟨ph, hb⟩ := command_completes h hs ht
    obtain ⟨r, rfl⟩ := receive_completes hb ht
    exact hreturn r
  have noResult (hrow : decodeOpc (Laws.Lead.rowMatch i) = some i) (hi : i ∉ Instr.withResults) :
      Completes i s.host t.host :=
    (exec_runs hrow h).completes (completion_writesResults h hs ht) hi hs ht
  cases i with
  | encid | decid | rdreg | awake => exact straight h (.succeeded rfl)
  | encctl => exact straight h (completes_encctlStep s)
  | decctl => exact straight h (completes_decctlStep s)
  | mnormal | mrxonly | msleep => exact straight h (completes_confirm (by decide) _ s)
  | wrreg | wrbit | creset | setbaud | xmit => exact noResult rfl (by decide)
  | recv => exact receiver h (completes_recvReturn · s)
  | sniff => exact receiver h (completes_sniffReturn · s)
  | recvf => exact execRecvf_completes h hs ht
  | ctlReset | ctlRead | ctlWrite | ctlBitmod =>
    cases h
    cases hs.symm.trans ht
  | ctlReadRxBuffer | ctlLoadTxBuffer | ctlRequestToSend | ctlReadStatus => cases h

end

/-- Settles O52: a failure has written nothing but STATUS, and RESULT where a mode command was not confirmed. -/
theorem completionOutcome : Obligations.CompletionOutcome := by
  intro i s t h hs ht
  refine ⟨Fsm.eq_idle_of_not_running ht, ?_⟩
  have hc := exec_completes h hs ht
  generalize s.host = r, t.host = r' at hc ⊢
  cases hc with
  | succeeded hst => exact .inl hst
  | failed e => exact .inr ⟨e, rfl, e.code_ne_zero, rfl, rfl, rfl, fun _ => rfl⟩
  | unconfirmed hi e => exact .inr ⟨e, rfl, e.code_ne_zero, rfl, rfl, rfl, fun hn => absurd hi hn⟩

end Sys2Proof.Machine
end

section
/-!
SUPPORT. Good states answer (60_exceptions.md R210, 20_memory.md R61): the engine and a transaction never fault, and of the
inputs only a host access outside the interface is refused.
-/
namespace Sys2Proof.Machine

/-- In a good state the engine is idle, at a phase of its command, or at an illegal opcode, and moves in each. -/
theorem State.Inv.engineStep_answers {s : State} (hs : s.Inv) : ∃ t, engineStep s = .next t := by
  cases hfsm : s.eng.fsm with
  | idle => exact ⟨s, by rw [engineStep, hfsm]⟩
  | run opc ph =>
    cases hopc : decodeOpc opc with
    | none => exact ⟨_, engineStep_illegal hfsm hopc⟩
    | some i =>
      have hphase : hasPhase i ph = true := by
        have hlegal := (hs.control opc ph hfsm).2
        rwa [legalPhase, hopc] at hlegal
      rw [engineStep_run hfsm hopc]
      exact (isCommand_of_decodeOpc hopc).answers s ph hfsm hphase

/-- An input that is a host access outside the interface: of another width, offset or window (R61). -/
def Input.Outside (i : Input) : Prop :=
  ∃ offset width, ¬ (width = 32 ∧ offset % 4 = 0 ∧ offset < 256) ∧
    (i = .read offset width ∨ ∃ v, i = .write offset width v)

/-- In a good state every move is made, but for a host access outside the interface. -/
theorem State.Inv.inputStep_answers {s : State} (hs : s.Inv) (i : Input) :
    (∃ t, inputStep i s = .next t) ∨ (inputStep i s = .refused .hostAccessOutsideInterface ∧ i.Outside) := by
  cases i with
  | read offset width =>
    by_cases hl : legalAccess offset width = true
    · exact .inl ⟨_, hostRead_legal hl s⟩
    · exact .inr ⟨hostRead_illegal hl s, offset, width, mt legalAccess_iff.mpr hl, .inl rfl⟩
  | write offset width v =>
    by_cases hl : legalAccess offset width = true
    · exact .inl ⟨_, if_pos hl⟩
    · exact .inr ⟨hostWrite_illegal hl v s, offset, width, mt legalAccess_iff.mpr hl, .inr ⟨v, rfl⟩⟩
  | engine => exact .inl hs.engineStep_answers
  | wait | blockReset | controllerPowerOn => exact .inl ⟨_, rfl⟩

/-- A transaction runs or is refused: its bytes decode to no command, and only a command has phases to fault at. -/
theorem portStep_ne_fault (bytes : List Byte) (s : State) (r : Fault) : portStep bytes s ≠ .fault r := by
  unfold portStep
  split
  · next i hi =>
    cases i with
    | ctlReset | ctlRead | ctlWrite | ctlBitmod | ctlReadRxBuffer | ctlLoadTxBuffer | ctlRequestToSend | ctlReadStatus =>
      exact nofun
    | encid | decid | encctl | decctl | rdreg | wrreg | wrbit | creset | mnormal | mrxonly | msleep | awake | setbaud |
      recv | sniff | recvf | xmit =>
      have hcode := (encodeOfDecodedTransaction bytes _ hi (by decide)).2
      cases hcode
  · exact nofun

/-- Settles O60: the port never faults, and with an empty port the head of the inputs says who moves. -/
theorem goodStatesNeverFault : Obligations.GoodStatesNeverFault := by
  intro s hs
  cases hport : s.env.port with
  | some bytes =>
    rw [step_of_port hport]
    exact ⟨portStep_ne_fault bytes _, nofun⟩
  | none =>
    cases hin : s.env.inputs with
    | nil =>
      obtain ⟨t, ht⟩ := hs.engineStep_answers
      rw [step_of_no_input hport hin, ht]
      exact ⟨nofun, nofun⟩
    | cons i rest =>
      have hgood : (setInputs rest s).Inv := (Works.setInputs rest s).inv rfl hs
      rw [step_of_input hport hin]
      obtain ⟨t, ht⟩ | ⟨hrefused, offset, width, houtside, haccess⟩ := hgood.inputStep_answers i
      · rw [ht]
        exact ⟨nofun, nofun⟩
      · rw [hrefused]
        refine ⟨nofun, fun r _ hr => ⟨(Host.Outcome.refused.inj hr).symm, offset, width, rest, houtside, ?_⟩⟩
        simpa using haccess

end Sys2Proof.Machine
end

section
/-!
SUPPORT. The block reset (70_reset_and_hazards.md R230, R231; log 18): what the host reads after it, and what is known of the
controller of an idle block.
-/
namespace Sys2Proof.Machine

/-- Every host register reads 0x00000000 after the block reset (R230). -/
theorem HostRegs.read_reset (r : HostReg) : HostRegs.reset.read r = 0 := by
  cases r <;> decide

/-- An idle block has no transaction to cut short, and the record stands (R231). -/
theorem ctlAfterReset_idle {s : State} (hidle : s.eng.fsm = .idle) : ctlAfterReset s = s.ctl := by
  rw [ctlAfterReset, hidle]

/-- Settles O46: the head of the inputs is the reset, which draws the latches it leaves unspecified and nothing else of the
environment. -/
theorem blockResetEffect : Obligations.BlockResetEffect := by
  intro s rest hport hinputs
  refine ⟨blockReset (setInputs rest s), step_of_input hport hinputs, HostRegs.read_reset, rfl, rfl, rfl, rfl, ?_⟩
  intro hidle
  exact ctlAfterReset_idle (s := setInputs rest s) hidle

end Sys2Proof.Machine
end
